-- ==== Sys2Proof/Word.lean ====
section
/-! DEFINITION. The widths of the block's interface: 32-bit register words, 12-bit offsets, 48-bit transaction words. -/

namespace Sys2Proof

/-- A register word: 32 data bits, bit 0 least significant (20_memory.md R61, R64). -/
abbrev Word := BitVec 32

/-- A byte of a colour, of the LED frame or of a byte lane. -/
abbrev Byte := BitVec 8

/-- A byte offset in the register window (20_memory.md R60). -/
abbrev Off := BitVec 12

/-- A host transaction word `CMD[47:44] OFF[43:32] DATA[31:0]` (30_encoding.md R90). -/
abbrev TxWord := BitVec 48

end Sys2Proof
end

