-- ==== Sys2Proof/Syntax.lean ====
section
/-! DEFINITION. The operations of the block: one constructor per row of spec/opcode_table.json (00_scope.md R2), and the moves an
interleaving is made of (00_scope.md R5). -/

namespace Sys2Proof

/-- One operation of the block. A bus row keeps the whole of its transaction word, the ignored `DATA` of a read or of a write to a
read-only register among it (30_encoding.md R90), so that the word can be written out again; see the assumption log, 9. -/
inductive Instr where
  /-- RD_ENC_CTRL: read at 0x000: R164. -/
  | rdEncCtrl (data : Word)
  /-- WR_ENC_CTRL: write at 0x000: R161. -/
  | wrEncCtrl (data : Word)
  /-- RD_ENC_MIN: read at 0x004: R165. -/
  | rdEncMin (data : Word)
  /-- WR_ENC_MIN: write at 0x004: R162. -/
  | wrEncMin (data : Word)
  /-- RD_ENC_MAX: read at 0x008: R166. -/
  | rdEncMax (data : Word)
  /-- WR_ENC_MAX: write at 0x008: R163. -/
  | wrEncMax (data : Word)
  /-- RD_ENC_RAW: read at 0x00C: R167. -/
  | rdEncRaw (data : Word)
  /-- WR_ENC_RAW: write at 0x00C: R92. -/
  | wrEncRaw (data : Word)
  /-- RD_ENC_POS: read at 0x010: R168. -/
  | rdEncPos (data : Word)
  /-- WR_ENC_POS: write at 0x010: R160. -/
  | wrEncPos (data : Word)
  /-- RD_ENC_POS_PREV: read at 0x014: R169. -/
  | rdEncPosPrev (data : Word)
  /-- WR_ENC_POS_PREV: write at 0x014: R92. -/
  | wrEncPosPrev (data : Word)
  /-- RD_ENC_STATUS: read at 0x018: R174. -/
  | rdEncStatus (data : Word)
  /-- WR_ENC_STATUS: write at 0x018: R92. -/
  | wrEncStatus (data : Word)
  /-- RD_ENC_T_LAST: read at 0x01C: R172. -/
  | rdEncTLast (data : Word)
  /-- WR_ENC_T_LAST: write at 0x01C: R92. -/
  | wrEncTLast (data : Word)
  /-- RD_ENC_T_PREV: read at 0x020: R173. -/
  | rdEncTPrev (data : Word)
  /-- WR_ENC_T_PREV: write at 0x020: R92. -/
  | wrEncTPrev (data : Word)
  /-- RD_ENC_SEQ: read at 0x024: R175. -/
  | rdEncSeq (data : Word)
  /-- WR_ENC_SEQ: write at 0x024: R92. -/
  | wrEncSeq (data : Word)
  /-- RD_TIME: read at 0x028: R176. -/
  | rdTime (data : Word)
  /-- WR_TIME: write at 0x028: R92. -/
  | wrTime (data : Word)
  /-- RD_EF_ENC: read at 0x040: R125. -/
  | rdEfEnc (data : Word)
  /-- WR_EF_ENC: write at 0x040: R126. -/
  | wrEfEnc (data : Word)
  /-- RD_EF_LED: read at 0x044: R125. -/
  | rdEfLed (data : Word)
  /-- WR_EF_LED: write at 0x044: R126. -/
  | wrEfLed (data : Word)
  /-- RD_EF_ENC_LAST: read at 0x048: R127. -/
  | rdEfEncLast (data : Word)
  /-- WR_EF_ENC_LAST: write at 0x048: R92. -/
  | wrEfEncLast (data : Word)
  /-- RD_EF_LED_LAST: read at 0x04C: R127. -/
  | rdEfLedLast (data : Word)
  /-- WR_EF_LED_LAST: write at 0x04C: R92. -/
  | wrEfLedLast (data : Word)
  /-- RD_LED_LEN: read at 0x080: R207. -/
  | rdLedLen (data : Word)
  /-- WR_LED_LEN: write at 0x080: R92. -/
  | wrLedLen (data : Word)
  /-- RD_LED_CAP: read at 0x084: R208. -/
  | rdLedCap (data : Word)
  /-- WR_LED_CAP: write at 0x084: R92. -/
  | wrLedCap (data : Word)
  /-- RD_LED_RESULT: read at 0x088: R209. -/
  | rdLedResult (data : Word)
  /-- WR_LED_RESULT: write at 0x088: R92. -/
  | wrLedResult (data : Word)
  /-- RD_LED_STATUS: read at 0x08C: R213. -/
  | rdLedStatus (data : Word)
  /-- WR_LED_STATUS: write at 0x08C: R92. -/
  | wrLedStatus (data : Word)
  /-- RD_LED_INDEX: read at 0x090: R204. -/
  | rdLedIndex (data : Word)
  /-- WR_LED_INDEX: write at 0x090: R200. -/
  | wrLedIndex (data : Word)
  /-- RD_LED_SET_ONE: read at 0x094: R92. -/
  | rdLedSetOne (data : Word)
  /-- WR_LED_SET_ONE: write at 0x094: R201. -/
  | wrLedSetOne (data : Word)
  /-- RD_LED_SET_ALL: read at 0x098: R92. -/
  | rdLedSetAll (data : Word)
  /-- WR_LED_SET_ALL: write at 0x098: R202. -/
  | wrLedSetAll (data : Word)
  /-- RD_LED_STAGE: read at 0x400 + 4i: R205, R100. -/
  | rdLedStage (i : BitVec 8) (data : Word)
  /-- WR_LED_STAGE: write at 0x400 + 4i: R203, R100. -/
  | wrLedStage (i : BitVec 8) (data : Word)
  /-- RD_LED_BUF: read at 0x800 + 4i: R206, R100. -/
  | rdLedBuf (i : BitVec 8) (data : Word)
  /-- WR_LED_BUF: write at 0x800 + 4i: R92, R100. -/
  | wrLedBuf (i : BitVec 8) (data : Word)
  /-- RD_UNMAPPED: read of an aligned offset that names no register: R62. -/
  | rdUnmapped (off : Off) (data : Word)
  /-- WR_UNMAPPED: write of an aligned offset that names no register: R62. -/
  | wrUnmapped (off : Off) (data : Word)
  /-- REFUSED_CMD_2_3: CMD in 2..3, ReservedCommand: R63. -/
  | refusedCmd2to3 (cmd : BitVec 4) (off : Off) (data : Word)
  /-- REFUSED_CMD_4_7: CMD in 4..7, ReservedCommand: R63. -/
  | refusedCmd4to7 (cmd : BitVec 4) (off : Off) (data : Word)
  /-- REFUSED_CMD_8_15: CMD in 8..15, ReservedCommand: R63. -/
  | refusedCmd8to15 (cmd : BitVec 4) (off : Off) (data : Word)
  /-- REFUSED_MISALIGNED_OFF0: CMD in 0..1 and OFF[0] = 1, Misaligned: R63, R257. -/
  | refusedMisalignedOff0 (cmd : BitVec 4) (off : Off) (data : Word)
  /-- REFUSED_MISALIGNED_OFF1: CMD in 0..1, OFF[0] = 0 and OFF[1] = 1, Misaligned: R63, R257. -/
  | refusedMisalignedOff1 (cmd : BitVec 4) (off : Off) (data : Word)
  /-- ENV_PADS: agent step, always enabled: R150. -/
  | envPads (a b : Bool)
  /-- SYNC_A: agent step, enabled when SYNC_A != PAD_A: R151. -/
  | syncA
  /-- SYNC_B: agent step, enabled when SYNC_B != PAD_B: R151. -/
  | syncB
  /-- ENCW_CONSUME_READ: agent step, enabled when ENCW_PH = IDLE and EF[ENC] != 0: R134. -/
  | encwConsumeRead
  /-- ENCW_CONSUME_CLEAR: agent step, enabled when ENCW_PH = CLEAR: R135. -/
  | encwConsumeClear
  /-- ENCW_UPDATE: agent step, enabled when ENCW_PH = UPDATE: R152. -/
  | encwUpdate
  /-- LEDW_CONSUME_READ: agent step, enabled when LEDW_PH = IDLE and EF[LED] != 0: R134. -/
  | ledwConsumeRead
  /-- LEDW_CONSUME_CLEAR: agent step, enabled when LEDW_PH = CLEAR: R135. -/
  | ledwConsumeClear
  /-- LEDW_START: agent step, enabled when LEDW_PH = START: R215. -/
  | ledwStart
  /-- LEDW_TX: agent step, enabled when LEDW_PH = TX: R216. -/
  | ledwTx
  /-- TICK: agent step, always enabled: R170. -/
  | tick
  /-- RESET: agent step, enabled when the host asserts reset: R280. -/
  | reset (a b : Bool)
deriving DecidableEq, Repr

/-- The steps of the internal agents, of the environment and of the reset input: they have no bus encoding (30_encoding.md R101). -/
inductive AgentStep where
  | envPads (a b : Bool)
  | syncA
  | syncB
  | encwConsumeRead
  | encwConsumeClear
  | encwUpdate
  | ledwConsumeRead
  | ledwConsumeClear
  | ledwStart
  | ledwTx
  | tick
  | reset (a b : Bool)
deriving DecidableEq, Repr

/-- The operation an agent step is. -/
def AgentStep.toInstr : AgentStep → Instr
  | .envPads a b => .envPads a b
  | .syncA => .syncA
  | .syncB => .syncB
  | .encwConsumeRead => .encwConsumeRead
  | .encwConsumeClear => .encwConsumeClear
  | .encwUpdate => .encwUpdate
  | .ledwConsumeRead => .ledwConsumeRead
  | .ledwConsumeClear => .ledwConsumeClear
  | .ledwStart => .ledwStart
  | .ledwTx => .ledwTx
  | .tick => .tick
  | .reset a b => .reset a b

/-- One move of the interleaving (00_scope.md R5): the host presents a transaction word, or an agent takes a step. -/
inductive Move where
  /-- HOST presents one transaction word (20_memory.md R61). -/
  | bus (w : TxWord)
  /-- Another agent is given its turn. -/
  | agent (a : AgentStep)
deriving DecidableEq, Repr, Inhabited

end Sys2Proof
end

