-- ==== Sys2Proof/Config.lean ====
section
/-! DEFINITION. What an implementation fixes (00_scope.md R6) and the one free value of the model: the interleaving. -/

namespace Sys2Proof

/-- The implementation parameters of 00_scope.md R6, fixed for a block instance (10_state.md R20). -/
structure Config where
  /-- `EF_W`: width of each event-flag word. -/
  efW : Nat
  /-- `RAW_W`: width of the raw counter and of every position value. -/
  rawW : Nat
  /-- `TS_W`: width of the time counter and of each timestamp. -/
  tsW : Nat
  /-- `LED_CAP`: the physical strip length. -/
  ledCap : Nat
  /-- `LATCH_GATED`: project the external position at latch states only. -/
  latchGated : Bool
  /-- `N_EF_DOMAINS`: the number of event-flag instances, ENC and LED among them. -/
  nEfDomains : Nat
deriving DecidableEq, Repr

/-- The legal ranges of the parameters (00_scope.md R6). -/
abbrev Config.legal (c : Config) : Prop :=
  (2 ≤ c.efW ∧ c.efW ≤ 32) ∧ (4 ≤ c.rawW ∧ c.rawW ≤ 32) ∧ (1 ≤ c.tsW ∧ c.tsW ≤ 32) ∧ (1 ≤ c.ledCap ∧ c.ledCap ≤ 256) ∧
  2 ≤ c.nEfDomains

/-- The reference configuration, used by every vector of 95_test_vectors.md (00_scope.md R6). -/
def Config.reference : Config where
  efW := 32
  rawW := 16
  tsW := 32
  ledCap := 16
  latchGated := false
  nEfDomains := 2

/-- The event domains: ENC, LED, and `N_EF_DOMAINS - 2` further instances (00_scope.md R6, 40_event_flags.md R120). -/
inductive Domain where
  /-- The encoder's domain, consumed by ENCW. -/
  | enc
  /-- The LED strip's domain, consumed by LEDW. -/
  | led
  /-- The further instance number `k`, counted from 0. It follows the same rules (R120); the spec gives it no register, no
  producer and no consumer (00_scope.md R4; assumption log 13). -/
  | other (k : Nat)
deriving DecidableEq, Repr

/-- FREE VALUE, no body: the `n`-th move that is drawn when no move has been decided. Any enabled step of any agent may be taken
next (00_scope.md R5; 93_implementation_defined.md I13, I14, I17), and nothing can be proved of which one (assumption log 1). -/
opaque Config.freeMove : Nat → Move

end Sys2Proof
end

