-- ==== Sys2Proof/Machine/State.lean ====
section
/-! DEFINITION. The state of the block (10_state.md), the reasons a step can stop, and the state after reset
(70_reset_and_hazards.md R280). -/

namespace Sys2Proof.Machine

/-- `LATCH_MODE` (10_state.md R33). The reserved value 3 is never held, so it is no value of this type. -/
inductive LatchMode where
  /-- 0, four-step. -/
  | fourL3
  /-- 1, four-step. -/
  | fourL0
  /-- 2, two-step. -/
  | twoL03
deriving DecidableEq, Repr

/-- `DIR`, derived from the two positions (10_state.md R36). -/
inductive Dir where
  /-- 0: the positions are equal. -/
  | none
  /-- 1: clockwise, `EXT > EXT_PREV`. -/
  | cw
  /-- 2: counter-clockwise, `EXT < EXT_PREV`. -/
  | ccw
deriving DecidableEq, Repr

/-- `RESULT`, the outcome of the most recent set one or set all (10_state.md R47, 60_exceptions.md R251). -/
inductive CmdResult where
  /-- 0. -/
  | ok
  /-- 1: the index is not below the current length. -/
  | outOfRange
  /-- 2: the count exceeds the current length. -/
  | capacityExceeded
deriving DecidableEq, Repr

/-- The phase of the encoder worker (10_state.md R38). -/
inductive EncwPhase where
  /-- Waiting on `EF[ENC]`. -/
  | idle
  /-- Between the read and the reset of the event word. -/
  | clear
  /-- About to run `update()`. -/
  | update
deriving DecidableEq, Repr

/-- The phase of the LED worker (10_state.md R38). -/
inductive LedwPhase where
  /-- Waiting on `EF[LED]`. -/
  | idle
  /-- Between the read and the reset of the event word. -/
  | clear
  /-- About to snapshot the strip. -/
  | start
  /-- Sending a frame. -/
  | tx
deriving DecidableEq, Repr

/-- A colour: 5-bit brightness and three 8-bit channels (10_state.md section 7). -/
structure Colour where
  bright : BitVec 5
  red : Byte
  green : Byte
  blue : Byte
deriving DecidableEq, Repr

/-- The colour with all four fields 0, `c_0` of 70_reset_and_hazards.md R280. -/
def Colour.zero : Colour where
  bright := 0
  red := 0
  green := 0
  blue := 0

/-- The two output pins of the LED encoder (10_state.md R48). -/
inductive Pin where
  | data
  | clk
deriving DecidableEq, Repr

/-- One `emit(pin, level)` event (42_led_encoder.md R217). -/
structure PinEvent where
  pin : Pin
  level : Bool
deriving DecidableEq, Repr

/-- The event-flag state of one domain (10_state.md R37, R39, R40). -/
structure EventFlags where
  /-- `EF[d]`: the pending bits. -/
  ef : Word
  /-- `SNAP[d]`: what the consume-read took. -/
  snap : Word
  /-- `EF_LAST[d]`: what the most recent completed consume returned. -/
  last : Word
deriving DecidableEq, Repr

/-- The block has no fault: it raises no exception and takes no trap (60_exceptions.md R250, R258). Safe: nothing is left out. -/
inductive Fault where
deriving DecidableEq, Repr

/-- Why a host transaction has no meaning. -/
inductive Refusal where
  /-- Raised by an arm of `exec` for an operation that has no meaning yet. Safe: the model stops where the block goes on. -/
  | notModelled (mnemonic : String)
  /-- Raised by the rows with `CMD` in 2..15 (20_memory.md R63, 60_exceptions.md R254). Safe: the spec takes no step either. -/
  | reservedCommand
  /-- Raised by the rows with `CMD` in 0..1 and `OFF[1:0] ≠ 0` (20_memory.md R63, R257). Safe: the spec takes no step either. -/
  | misaligned
deriving DecidableEq, Repr

/-- Every element of 10_state.md, then the fields of the model itself. A signed position is an integer in the range of
`RAW_W` bits and an event word or time a 32-bit word in the range of its width: `Sys2Proof.Inv` says so, and every step keeps it. -/
structure State where
  /-- The implementation parameters: no state, fixed for an instance (10_state.md R20; assumption log 3). -/
  cfg : Config
  /-- `PAD_A`, written by ENV only (R23). -/
  padA : Bool
  /-- `PAD_B` (R23). -/
  padB : Bool
  /-- `SYNC_A`, the synchronised level of pad A (R24). -/
  syncA : Bool
  /-- `SYNC_B` (R24). -/
  syncB : Bool
  /-- `PREV_SAMPLE = A + 2*B`, the sample `update()` last took (R25). -/
  prevSample : BitVec 2
  /-- `RAW`, the raw position counter (R26). -/
  raw : Int
  /-- `EXT`, the externally visible position (R27). -/
  ext : Int
  /-- `EXT_PREV` (R28). -/
  extPrev : Int
  /-- `T_LAST` (R29). -/
  tLast : Word
  /-- `T_PREV` (R29). -/
  tPrev : Word
  /-- `TIME` (R30). -/
  time : Word
  /-- `SEQ` (R31). -/
  seq : Word
  /-- `EN`, edge-event enable (R32). -/
  en : Bool
  /-- `LATCH_MODE` (R33). -/
  latchMode : LatchMode
  /-- `CLAMP_EN` (R34). -/
  clampEn : Bool
  /-- `MIN` (R35). -/
  minPos : Int
  /-- `MAX` (R35). -/
  maxPos : Int
  /-- `EF`, `SNAP` and `EF_LAST` of the domain ENC (R37, R39, R40). -/
  evEnc : EventFlags
  /-- `EF`, `SNAP` and `EF_LAST` of the domain LED. -/
  evLed : EventFlags
  /-- `EF`, `SNAP` and `EF_LAST` of the further domains, `N_EF_DOMAINS - 2` of them (00_scope.md R6, 40_event_flags.md R120;
  assumption log 13). -/
  evOther : List EventFlags
  /-- `ENCW_PH` (R38). -/
  encwPh : EncwPhase
  /-- `LEDW_PH` (R38); `BUSY` is derived from it (R44). -/
  ledwPh : LedwPhase
  /-- `BUF`, a sequence of `LEN` colours (R41). -/
  buf : List Colour
  /-- `STAGE`, `LED_CAP` colours (R43). -/
  stage : List Colour
  /-- `INDEX` (R46). -/
  index : Word
  /-- `RESULT` (R47). -/
  result : CmdResult
  /-- `TX_FRAME`, the frame being sent (R45). -/
  txFrame : List PinEvent
  /-- `TX_POS`, the index of its next event (R45). -/
  txPos : Nat
  /-- `DATA`, the level of the data pin (R48). -/
  dataPin : Bool
  /-- `CLK`, the level of the clock pin (R48). -/
  clkPin : Bool
  /-- `TRACE`, the pin events since reset (R49). -/
  trace : List PinEvent
  /-- The model's: what the most recent host transaction returned, `RDATA` of 30_encoding.md R90 (assumption log 5). -/
  rdata : Option Word
  /-- The model's: the moves decided but not yet taken, oldest first (assumption log 1). -/
  agenda : List Move
  /-- The model's: how many moves have been drawn freely (assumption log 1). -/
  draws : Nat
deriving DecidableEq, Repr

/-- `LEN`, the current length of the strip (10_state.md R41). -/
def State.len (s : State) : Nat := s.buf.length

/-- The block of configuration `c` right after a reset released with the pads at levels `a` and `b`
(70_reset_and_hazards.md R280, R281), with no move decided. -/
def State.atReset (c : Config) (a b : Bool) : State where
  cfg := c
  padA := a
  padB := b
  syncA := a
  syncB := b
  prevSample := BitVec.ofNat 2 (a.toNat + 2 * b.toNat)
  raw := 0
  ext := 0
  extPrev := 0
  tLast := 0
  tPrev := 0
  time := 0
  seq := 0
  en := false
  latchMode := .fourL3
  clampEn := false
  minPos := -(2 ^ (c.rawW - 1))
  maxPos := 2 ^ (c.rawW - 1) - 1
  evEnc := ⟨0, 0, 0⟩
  evLed := ⟨0, 0, 0⟩
  evOther := List.replicate (c.nEfDomains - 2) ⟨0, 0, 0⟩
  encwPh := .idle
  ledwPh := .idle
  buf := List.replicate c.ledCap Colour.zero
  stage := List.replicate c.ledCap Colour.zero
  index := 0
  result := .ok
  txFrame := []
  txPos := 0
  dataPin := false
  clkPin := false
  trace := []
  rdata := none
  agenda := []
  draws := 0

/-- The reference block (00_scope.md R6) right after a reset released with both pads low, as every vector of 95_test_vectors.md
has it (assumption log 3, 4). -/
def State.reset : State := State.atReset Config.reference false false

end Sys2Proof.Machine
end

