-- ==== Sys2Proof/Machine/Operands.lean ====
section
/-! DEFINITION. How `DATA` is decoded and how values are read back: positions, event words, times, colours, control fields
(30_encoding.md R91, R93, R94, R96, R97, R98, R99; 00_scope.md R8, R9). -/

namespace Sys2Proof.Machine

/-- `trunc_N(v)`: the integer `v` reduced to an `n`-bit two's-complement number (00_scope.md R8). -/
def truncN (n : Nat) (v : Int) : Int :=
  if v % 2 ^ n < 2 ^ (n - 1) then v % 2 ^ n else v % 2 ^ n - 2 ^ n

/-- `sext_N(v)` of a bus word: its low `n` bits as a two's-complement number (00_scope.md R8, 30_encoding.md R94). -/
def sextN (n : Nat) (w : Word) : Int := truncN n w.toNat

/-- `u32(v) = v mod 2^32` (00_scope.md R8). -/
def u32 (v : Int) : Word := BitVec.ofInt 32 v

/-- `asr(v, n) = floor(v / 2^n)` (00_scope.md R8): `Int` division rounds down for a positive divisor. -/
def asr (v : Int) (n : Nat) : Int := v / 2 ^ n

/-- The mask `2^EF_W - 1` of the bits an event word has (40_event_flags.md R121, 30_encoding.md R98). -/
def efMask (c : Config) : Word := BitVec.ofNat 32 (2 ^ c.efW - 1)

/-- A count reduced modulo `2^TS_W` (41_quadrature_decoder.md R170). -/
def timeWord (c : Config) (n : Nat) : Word := BitVec.ofNat 32 (n % 2 ^ c.tsW)

/-- The sample `A + 2*B` of two levels (00_scope.md R7). -/
def sampleOf (a b : Bool) : BitVec 2 := BitVec.ofNat 2 (a.toNat + 2 * b.toNat)

/-- The code of a latch mode in `ENC_CTRL[2:1]` (30_encoding.md R93). -/
def latchModeCode : LatchMode → BitVec 2
  | .fourL3 => 0
  | .fourL0 => 1
  | .twoL03 => 2

/-- The latch mode that `ENC_CTRL[2:1]` names; none for the reserved value 3 (30_encoding.md R95). -/
def latchModeOf (b : BitVec 2) : Option LatchMode :=
  match b with
  | 0#2 => some .fourL3
  | 1#2 => some .fourL0
  | 2#2 => some .twoL03
  | _ => none

/-- The code of a direction in `ENC_STATUS[3:2]` (10_state.md R36). -/
def dirCode : Dir → Nat
  | .none => 0
  | .cw => 1
  | .ccw => 2

/-- The code of a result in `LED_RESULT[1:0]` (30_encoding.md R99). -/
def resultCode : CmdResult → Nat
  | .ok => 0
  | .outOfRange => 1
  | .capacityExceeded => 2

/-- The colour a colour word stores: brightness [28:24], red [23:16], green [15:8], blue [7:0]; bits [31:29] are ignored
(30_encoding.md R97). -/
def colourOfWord (w : Word) : Colour where
  bright := w.extractLsb' 24 5
  red := w.extractLsb' 16 8
  green := w.extractLsb' 8 8
  blue := w.extractLsb' 0 8

/-- The colour word of a colour, bits [31:29] zero (30_encoding.md R97). -/
def colourWord (c : Colour) : Word :=
  BitVec.ofNat 32 (c.bright.toNat * 2 ^ 24 + c.red.toNat * 2 ^ 16 + c.green.toNat * 2 ^ 8 + c.blue.toNat)

/-- `EN`, bit 0 of a control word (30_encoding.md R93). -/
def ctrlEn (w : Word) : Bool := w.getLsbD 0

/-- `LATCH_MODE`, bits [2:1] of a control word (30_encoding.md R93). -/
def ctrlMode (w : Word) : BitVec 2 := w.extractLsb' 1 2

/-- `CLAMP_EN`, bit 3 of a control word (30_encoding.md R93). -/
def ctrlClamp (w : Word) : Bool := w.getLsbD 3

end Sys2Proof.Machine
end

