-- ==== Sys2Proof/Machine/Flags.lean ====
section
/-! DEFINITION. The flags of the block: the event words and their set and consume operations (40_event_flags.md), and the derived
`DIR` and `BUSY` (10_state.md R36, R44). There are no condition codes (10_state.md section 5). -/

namespace Sys2Proof.Machine

/-- The event-flag state of a domain (40_event_flags.md R120). -/
def State.ev (s : State) (d : Domain) : EventFlags :=
  match d with
  | .enc => s.evEnc
  | .led => s.evLed
  | .other k => s.evOther.getD k ⟨0, 0, 0⟩

/-- `s` with the event-flag state of one domain replaced; domains share nothing (40_event_flags.md R120). -/
def State.setEv (s : State) (d : Domain) (e : EventFlags) : State :=
  match d with
  | .enc => { s with evEnc := e }
  | .led => { s with evLed := e }
  | .other k => { s with evOther := s.evOther.set k e }

/-- The set primitive `set(d, m)`: `EF[d] <- EF[d] | (m & (2^EF_W - 1))` (40_event_flags.md R121). -/
def setEvents (d : Domain) (m : Word) (s : State) : State :=
  s.setEv d { s.ev d with ef := (s.ev d).ef ||| (m &&& efMask s.cfg) }

/-- The data of a consume-read: `SNAP[d] <- EF[d]` (40_event_flags.md R134). -/
def snapEvents (d : Domain) (s : State) : State :=
  s.setEv d { s.ev d with snap := (s.ev d).ef }

/-- The data of a consume-clear: `EF[d] <- 0`, `EF_LAST[d] <- SNAP[d]` (40_event_flags.md R135). -/
def clearEvents (d : Domain) (s : State) : State :=
  s.setEv d { s.ev d with ef := 0, last := (s.ev d).snap }

/-- `EDGE_A`, bit 0 of `EF[ENC]` (30_encoding.md R98). -/
def edgeA : Word := 1

/-- `EDGE_B`, bit 1 of `EF[ENC]` (30_encoding.md R98). -/
def edgeB : Word := 2

/-- `UPDATE`, bit 0 of `EF[LED]` (30_encoding.md R98). -/
def updateEvent : Word := 1

/-- `DIR`: compare the external position with the previous one (10_state.md R36). -/
def State.dir (s : State) : Dir :=
  if s.extPrev < s.ext then .cw else if s.ext < s.extPrev then .ccw else .none

/-- `BUSY`: a frame is being sent (10_state.md R44). -/
def State.busy (s : State) : Bool := s.ledwPh == .tx

end Sys2Proof.Machine
end

