-- ==== Sys2Proof/Machine/LedStrip.lean ====
section
/-! DEFINITION. The LED strip buffer and the bit-serial encoder: set one, set all, staging, frame, serialisation, start and
transmit (42_led_encoder.md). -/

namespace Sys2Proof.Machine

/-- Set one with the stored index and colour `c` (42_led_encoder.md R201). -/
def setOne (c : Colour) (s : State) : State :=
  if s.index.toNat < s.len then
    setEvents .led updateEvent { s with buf := s.buf.set s.index.toNat c, result := .ok }
  else { s with result := .outOfRange }

/-- Set all with the count `k`: the first `k` staged colours replace the strip (42_led_encoder.md R202). -/
def setAll (k : Word) (s : State) : State :=
  if s.len < k.toNat then { s with result := .capacityExceeded }
  else setEvents .led updateEvent { s with buf := s.stage.take k.toNat, result := .ok }

/-- `ceil(n/16)` (42_led_encoder.md R211). -/
def endBytes (n : Nat) : Nat := (n + 15) / 16

/-- The four bytes of one LED: header, blue, green, red (42_led_encoder.md R210). -/
def ledBytes (c : Colour) : List Byte := [0xE0 ||| c.bright.setWidth 8, c.blue, c.green, c.red]

/-- The frame of a strip snapshot: four zero bytes, four bytes per LED, `ceil(N/16)` bytes 0xFF (42_led_encoder.md R210, R211). -/
def frame (cs : List Colour) : List Byte :=
  List.replicate 4 0x00 ++ cs.flatMap ledBytes ++ List.replicate (endBytes cs.length) 0xFF

/-- One bit on the wire: drive the data pin, then the clock high and back low (42_led_encoder.md R212). -/
def sendBit (b : Bool) : List PinEvent := [⟨.data, b⟩, ⟨.clk, true⟩, ⟨.clk, false⟩]

/-- The bits of a byte, least significant first (42_led_encoder.md R212). -/
def byteBits (x : Byte) : List Bool := (List.range 8).map x.getLsbD

/-- The pin events of a byte sequence (42_led_encoder.md R212). -/
def serialize (bytes : List Byte) : List PinEvent := (bytes.flatMap byteBits).flatMap sendBit

/-- `24 * (4 + 4N + ceil(N/16))`, the number of pin events of a frame of `n` colours (42_led_encoder.md R214). -/
def frameEvents (n : Nat) : Nat := 24 * (4 + 4 * n + endBytes n)

/-- The start step's snapshot of the strip (42_led_encoder.md R215). -/
def startFrame (s : State) : State :=
  { s with txFrame := serialize (frame s.buf), txPos := 0, ledwPh := .tx }

/-- `emit(pin, v)`: drive the pin and append the event to the trace (42_led_encoder.md R217). -/
def emit (e : PinEvent) (s : State) : State :=
  match e.pin with
  | .data => { s with dataPin := e.level, trace := s.trace ++ [e] }
  | .clk => { s with clkPin := e.level, trace := s.trace ++ [e] }

/-- After the event at `TX_POS`: go on to the next one, or end the frame (42_led_encoder.md R216). -/
def advanceFrame (s : State) : State :=
  if s.txPos + 1 = s.txFrame.length then { s with ledwPh := .idle, txFrame := [], txPos := 0 }
  else { s with txPos := s.txPos + 1 }

/-- The transmit step (42_led_encoder.md R216). A position past the frame, which no run reaches, has no event to send
(assumption log 12). -/
def transmit (s : State) : State :=
  match s.txFrame[s.txPos]? with
  | some e => advanceFrame (emit e s)
  | none => s

/-- Bits grouped in eights, each group a byte read least significant bit first (42_led_encoder.md R217). DESIGN CHOICE: a last
group of fewer than eight bits, as in the middle of a frame, gives no byte (assumption log 24). -/
def bytesOfBits : List Bool → List Byte
  | b0 :: b1 :: b2 :: b3 :: b4 :: b5 :: b6 :: b7 :: rest =>
    BitVec.ofNat 8 (b0.toNat + 2 * b1.toNat + 4 * b2.toNat + 8 * b3.toNat + 16 * b4.toNat + 32 * b5.toNat + 64 * b6.toNat
      + 128 * b7.toNat) :: bytesOfBits rest
  | _ => []

/-- The levels of the data pin at the rising edges of the clock, the data pin starting at level `d` (42_led_encoder.md R212, R217). -/
def sampledBits : Bool → List PinEvent → List Bool
  | _, [] => []
  | _, ⟨.data, v⟩ :: es => sampledBits v es
  | d, ⟨.clk, true⟩ :: es => d :: sampledBits d es
  | d, ⟨.clk, false⟩ :: es => sampledBits d es

/-- The receiver view of a trace, the data pin starting low as after reset (42_led_encoder.md R217, R218). -/
def receiverView (es : List PinEvent) : List Byte := bytesOfBits (sampledBits false es)

end Sys2Proof.Machine
end

