-- ==== Sys2Proof/Machine/Quadrature.lean ====
section
/-! DEFINITION. The quadrature decoder: synchronisers, direction table, projection, range wrap, `update()` and set position
(41_quadrature_decoder.md). -/

namespace Sys2Proof.Machine

/-- The direction table, row by row (41_quadrature_decoder.md R154). -/
def dirTab : List Int :=
  [ 0, -1,  1,  0,
    1,  0,  0, -1,
   -1,  0,  0,  1,
    0,  1, -1,  0]

/-- `DIRTAB[p + 4*c]`: the delta of a transition from the previous sample `p` to the current sample `c` (R154). -/
def dirDelta (p c : BitVec 2) : Int := dirTab.getD (p.toNat + 4 * c.toNat) 0

/-- `shift(LATCH_MODE)` (R155). -/
def shiftOf : LatchMode → Nat
  | .fourL3 => 2
  | .fourL0 => 2
  | .twoL03 => 1

/-- `LATCH_STATES(LATCH_MODE)`, used only when `LATCH_GATED` is true (R155; 93_implementation_defined.md G2). -/
def latchStates : LatchMode → List (BitVec 2)
  | .fourL3 => [3]
  | .fourL0 => [0]
  | .twoL03 => [0, 3]

/-- Whether a changed sample `c` projects the counter onto `EXT`: always, or at latch states only (R155). -/
def projects (s : State) (c : BitVec 2) : Bool := !s.cfg.latchGated || (latchStates s.latchMode).contains c

/-- The range wrap: past `MAX` to `MIN`, else below `MIN` to `MAX` (R153). -/
def wrapRange (lo hi r : Int) : Int :=
  if hi < r then lo else if r < lo then hi else r

/-- The raw counter after a move by `d`: exact sum, range wrap if enabled and `d ≠ 0`, then `trunc_RAW_W` (R152). -/
def movedRaw (s : State) (d : Int) : Int :=
  truncN s.cfg.rawW (if s.clampEn && d != 0 then wrapRange s.minPos s.maxPos (s.raw + d) else s.raw + d)

/-- The part of `update()` taken when the sample `c` differs from the previous one (R152). -/
def takeSample (c : BitVec 2) (s : State) : State :=
  let raw' := movedRaw s (dirDelta s.prevSample c)
  { s with
    raw := raw'
    prevSample := c
    tPrev := s.tLast
    tLast := s.time
    extPrev := s.ext
    ext := if projects s c then asr raw' (shiftOf s.latchMode) else s.ext
    seq := s.seq + 1 }

/-- `update()` without its phase: an unchanged sample changes nothing (R152). -/
def sampleEncoder (s : State) : State :=
  let c := sampleOf s.syncA s.syncB
  if c = s.prevSample then s else takeSample c s

/-- The raw counter a set position to `p` leaves: the sub-detent phase of `RAW` is kept (R160). -/
def reseededRaw (s : State) (p : Int) : Int :=
  truncN s.cfg.rawW (p * 2 ^ shiftOf s.latchMode + s.raw % 2 ^ shiftOf s.latchMode)

/-- Set position to the external position `p` (R160). -/
def setPosition (p : Int) (s : State) : State :=
  let raw' := reseededRaw s p
  { s with
    raw := raw'
    ext := asr raw' (shiftOf s.latchMode)
    extPrev := asr raw' (shiftOf s.latchMode)
    seq := s.seq + 1 }

/-- Write of `ENC_CTRL`: the reserved mode 3 keeps the old mode, the other fields take effect (R161, 30_encoding.md R95). -/
def writeCtrl (v : Word) (s : State) : State :=
  { s with
    en := ctrlEn v
    latchMode := (latchModeOf (ctrlMode v)).getD s.latchMode
    clampEn := ctrlClamp v }

/-- An edge event of the encoder, set only while `EN = 1` (R151). -/
def edgeEvent (m : Word) (s : State) : State := if s.en then setEvents .enc m s else s

/-- The synchroniser of pad A takes the pad's level and raises `EDGE_A` (R151). -/
def syncPadA (s : State) : State := edgeEvent edgeA { s with syncA := s.padA }

/-- The synchroniser of pad B takes the pad's level and raises `EDGE_B` (R151). -/
def syncPadB (s : State) : State := edgeEvent edgeB { s with syncB := s.padB }

end Sys2Proof.Machine
end

