-- ==== Sys2Proof/WellFormed.lean ====
section
/-! DEFINITION. Which operations are well formed: the operands a row of spec/opcode_table.json admits. -/

namespace Sys2Proof

/-- The offsets of the named registers of the register map (30_encoding.md R92). -/
def namedOffsets : List Off :=
  [0x000, 0x004, 0x008, 0x00C, 0x010, 0x014, 0x018, 0x01C, 0x020, 0x024, 0x028, 0x040, 0x044, 0x048, 0x04C,
   0x080, 0x084, 0x088, 0x08C, 0x090, 0x094, 0x098]

/-- `OFF[1:0] = 0`: the only offsets that name a register (20_memory.md R60, R65). -/
def aligned (off : Off) : Bool := off.extractLsb' 0 2 == 0

/-- `OFF[11:10] = 0b01` is the staging window and `0b10` the buffer window (30_encoding.md R100). -/
def inWindow (off : Off) : Bool := off.extractLsb' 10 2 == 1 || off.extractLsb' 10 2 == 2

/-- The offsets of the rows RD_UNMAPPED and WR_UNMAPPED: aligned, and matched by no other row (30_encoding.md R92, R100).
An array offset with `i ≥ LED_CAP` is unmapped too; it keeps its array row, whose meaning treats it as unmapped
(assumption log 8). -/
def isUnmapped (off : Off) : Bool := aligned off && !inWindow off && !namedOffsets.contains off

/-- What the operands of each row must satisfy (spec/opcode_table.json). -/
def Instr.wf : Instr → Bool
  | .rdUnmapped off _ | .wrUnmapped off _ => isUnmapped off
  | .refusedCmd2to3 cmd _ _ => cmd == 2 || cmd == 3
  | .refusedCmd4to7 cmd _ _ => 4 ≤ cmd.toNat && cmd.toNat < 8
  | .refusedCmd8to15 cmd _ _ => 8 ≤ cmd.toNat
  | .refusedMisalignedOff0 cmd off _ => (cmd == 0 || cmd == 1) && off.getLsbD 0
  | .refusedMisalignedOff1 cmd off _ => (cmd == 0 || cmd == 1) && !off.getLsbD 0 && off.getLsbD 1
  | .rdEncCtrl _ | .wrEncCtrl _ | .rdEncMin _ | .wrEncMin _ | .rdEncMax _ => true
  | .wrEncMax _ | .rdEncRaw _ | .wrEncRaw _ | .rdEncPos _ | .wrEncPos _ => true
  | .rdEncPosPrev _ | .wrEncPosPrev _ | .rdEncStatus _ | .wrEncStatus _ | .rdEncTLast _ => true
  | .wrEncTLast _ | .rdEncTPrev _ | .wrEncTPrev _ | .rdEncSeq _ | .wrEncSeq _ => true
  | .rdTime _ | .wrTime _ | .rdEfEnc _ | .wrEfEnc _ | .rdEfLed _ => true
  | .wrEfLed _ | .rdEfEncLast _ | .wrEfEncLast _ | .rdEfLedLast _ | .wrEfLedLast _ => true
  | .rdLedLen _ | .wrLedLen _ | .rdLedCap _ | .wrLedCap _ | .rdLedResult _ => true
  | .wrLedResult _ | .rdLedStatus _ | .wrLedStatus _ | .rdLedIndex _ | .wrLedIndex _ => true
  | .rdLedSetOne _ | .wrLedSetOne _ | .rdLedSetAll _ | .wrLedSetAll _ | .rdLedStage _ _ => true
  | .wrLedStage _ _ | .rdLedBuf _ _ | .wrLedBuf _ _ => true
  | .envPads _ _ | .syncA | .syncB | .encwConsumeRead | .encwConsumeClear | .encwUpdate => true
  | .ledwConsumeRead | .ledwConsumeClear | .ledwStart | .ledwTx | .tick | .reset _ _ => true

/-- The agent steps, which have no bus encoding (30_encoding.md R101). -/
def Instr.isAgentStep : Instr → Bool
  | .envPads _ _ | .syncA | .syncB | .encwConsumeRead | .encwConsumeClear | .encwUpdate => true
  | .ledwConsumeRead | .ledwConsumeClear | .ledwStart | .ledwTx | .tick | .reset _ _ => true
  | .rdEncCtrl _ | .wrEncCtrl _ | .rdEncMin _ | .wrEncMin _ | .rdEncMax _ => false
  | .wrEncMax _ | .rdEncRaw _ | .wrEncRaw _ | .rdEncPos _ | .wrEncPos _ => false
  | .rdEncPosPrev _ | .wrEncPosPrev _ | .rdEncStatus _ | .wrEncStatus _ | .rdEncTLast _ => false
  | .wrEncTLast _ | .rdEncTPrev _ | .wrEncTPrev _ | .rdEncSeq _ | .wrEncSeq _ => false
  | .rdTime _ | .wrTime _ | .rdEfEnc _ | .wrEfEnc _ | .rdEfLed _ => false
  | .wrEfLed _ | .rdEfEncLast _ | .wrEfEncLast _ | .rdEfLedLast _ | .wrEfLedLast _ => false
  | .rdLedLen _ | .wrLedLen _ | .rdLedCap _ | .wrLedCap _ | .rdLedResult _ => false
  | .wrLedResult _ | .rdLedStatus _ | .wrLedStatus _ | .rdLedIndex _ | .wrLedIndex _ => false
  | .rdLedSetOne _ | .wrLedSetOne _ | .rdLedSetAll _ | .wrLedSetAll _ | .rdLedStage _ _ => false
  | .wrLedStage _ _ | .rdLedBuf _ _ | .wrLedBuf _ _ | .rdUnmapped _ _ | .wrUnmapped _ _ => false
  | .refusedCmd2to3 _ _ _ | .refusedCmd4to7 _ _ _ | .refusedCmd8to15 _ _ _ | .refusedMisalignedOff0 _ _ _ | .refusedMisalignedOff1 _ _ _ => false

end Sys2Proof
end

