-- ==== Sys2Proof/Machine/RegisterMap.lean ====
section
/-! DEFINITION. The register map: names, offsets, access, the read rule and the write rule of every register (30_encoding.md R92),
the access primitives MemRead and MemWrite (20_memory.md R62), and the byte view of a bridge (20_memory.md R64). -/

namespace Sys2Proof.Machine

/-- The registers of 30_encoding.md R92, by the spec's names. -/
inductive RegName where
  | encCtrl | encMin | encMax | encRaw | encPos | encPosPrev | encStatus | encTLast | encTPrev | encSeq | time
  | efEnc | efLed | efEncLast | efLedLast
  | ledLen | ledCap | ledResult | ledStatus | ledIndex | ledSetOne | ledSetAll
  | ledStage (i : BitVec 8)
  | ledBuf (i : BitVec 8)
deriving DecidableEq, Repr

/-- The column "access" of 30_encoding.md R92. -/
inductive Access where
  | rw
  | ro
  | wo
deriving DecidableEq, Repr

/-- The column "offset" of 30_encoding.md R92. -/
def RegName.offset : RegName → Off
  | .encCtrl => 0x000
  | .encMin => 0x004
  | .encMax => 0x008
  | .encRaw => 0x00C
  | .encPos => 0x010
  | .encPosPrev => 0x014
  | .encStatus => 0x018
  | .encTLast => 0x01C
  | .encTPrev => 0x020
  | .encSeq => 0x024
  | .time => 0x028
  | .efEnc => 0x040
  | .efLed => 0x044
  | .efEncLast => 0x048
  | .efLedLast => 0x04C
  | .ledLen => 0x080
  | .ledCap => 0x084
  | .ledResult => 0x088
  | .ledStatus => 0x08C
  | .ledIndex => 0x090
  | .ledSetOne => 0x094
  | .ledSetAll => 0x098
  | .ledStage i => BitVec.ofNat 12 (0x400 + 4 * i.toNat)
  | .ledBuf i => BitVec.ofNat 12 (0x800 + 4 * i.toNat)

/-- The column "access" of 30_encoding.md R92. -/
def RegName.access : RegName → Access
  | .encCtrl | .encMin | .encMax | .encPos | .efEnc | .efLed | .ledIndex | .ledStage _ => .rw
  | .encRaw | .encPosPrev | .encStatus | .encTLast | .encTPrev | .encSeq | .time | .efEncLast | .efLedLast => .ro
  | .ledLen | .ledCap | .ledResult | .ledStatus | .ledBuf _ => .ro
  | .ledSetOne | .ledSetAll => .wo

/-- The registers outside the array windows. -/
def namedRegs : List RegName :=
  [.encCtrl, .encMin, .encMax, .encRaw, .encPos, .encPosPrev, .encStatus, .encTLast, .encTPrev, .encSeq, .time,
   .efEnc, .efLed, .efEncLast, .efLedLast,
   .ledLen, .ledCap, .ledResult, .ledStatus, .ledIndex, .ledSetOne, .ledSetAll]

/-- An array element exists when its index is below `LED_CAP` (30_encoding.md R100). -/
def elementMapped (c : Config) (i : BitVec 8) : Bool := i.toNat < c.ledCap

/-- The register an aligned offset names, if any (30_encoding.md R92, R100). -/
def regAt (c : Config) (off : Off) : Option RegName :=
  let i : BitVec 8 := off.extractLsb' 2 8
  if off.extractLsb' 10 2 = 1 then (if elementMapped c i then some (.ledStage i) else none)
  else if off.extractLsb' 10 2 = 2 then (if elementMapped c i then some (.ledBuf i) else none)
  else namedRegs.find? (fun r => r.offset == off)

/-- `ENC_CTRL` as read: `EN + 2*LATCH_MODE + 8*CLAMP_EN` (41_quadrature_decoder.md R164). -/
def ctrlWord (s : State) : Word :=
  BitVec.ofNat 32 (s.en.toNat + 2 * (latchModeCode s.latchMode).toNat + 8 * s.clampEn.toNat)

/-- `ENC_STATUS` as read: `PREV_SAMPLE + 4*DIR + 16*(SYNC_A + 2*SYNC_B)` (41_quadrature_decoder.md R174). -/
def statusWord (s : State) : Word :=
  BitVec.ofNat 32 (s.prevSample.toNat + 4 * dirCode s.dir + 16 * (s.syncA.toNat + 2 * s.syncB.toNat))

/-- The read rule of every register (30_encoding.md R92). An array element that does not exist reads as an unmapped offset
(R100), a dropped buffer entry reads 0 (42_led_encoder.md R206), a write-only register reads 0. -/
def readReg (r : RegName) (s : State) : Word :=
  match r with
  | .encCtrl => ctrlWord s
  | .encMin => u32 s.minPos
  | .encMax => u32 s.maxPos
  | .encRaw => u32 s.raw
  | .encPos => u32 s.ext
  | .encPosPrev => u32 s.extPrev
  | .encStatus => statusWord s
  | .encTLast => s.tLast
  | .encTPrev => s.tPrev
  | .encSeq => s.seq
  | .time => s.time
  | .efEnc => (s.ev .enc).ef
  | .efLed => (s.ev .led).ef
  | .efEncLast => (s.ev .enc).last
  | .efLedLast => (s.ev .led).last
  | .ledLen => BitVec.ofNat 32 s.len
  | .ledCap => BitVec.ofNat 32 s.cfg.ledCap
  | .ledResult => BitVec.ofNat 32 (resultCode s.result)
  | .ledStatus => BitVec.ofNat 32 s.busy.toNat
  | .ledIndex => s.index
  | .ledSetOne => 0
  | .ledSetAll => 0
  | .ledStage i => if elementMapped s.cfg i then (s.stage[i.toNat]?.map colourWord).getD 0 else 0
  | .ledBuf i => if elementMapped s.cfg i then (s.buf[i.toNat]?.map colourWord).getD 0 else 0

/-- The write rule of every register (30_encoding.md R92): a read-only register, and an array element that does not exist
(R100), ignore the write. -/
def writeReg (r : RegName) (v : Word) (s : State) : State :=
  match r with
  | .encCtrl => writeCtrl v s
  | .encMin => { s with minPos := sextN s.cfg.rawW v }
  | .encMax => { s with maxPos := sextN s.cfg.rawW v }
  | .encPos => setPosition (sextN s.cfg.rawW v) s
  | .efEnc => setEvents .enc v s
  | .efLed => setEvents .led v s
  | .ledIndex => { s with index := v }
  | .ledSetOne => setOne (colourOfWord v) s
  | .ledSetAll => setAll v s
  | .ledStage i => if elementMapped s.cfg i then { s with stage := s.stage.set i.toNat (colourOfWord v) } else s
  | .encRaw => s
  | .encPosPrev => s
  | .encStatus => s
  | .encTLast => s
  | .encTPrev => s
  | .encSeq => s
  | .time => s
  | .efEncLast => s
  | .efLedLast => s
  | .ledLen => s
  | .ledCap => s
  | .ledResult => s
  | .ledStatus => s
  | .ledBuf _ => s

/-- `MemRead(off, 4)` (20_memory.md R62). -/
def memRead (off : Off) (s : State) : Except Refusal Word :=
  if aligned off then
    match regAt s.cfg off with
    | some r => .ok (readReg r s)
    | none => .ok 0
  else .error .misaligned

/-- `MemWrite(off, 4, v)` (20_memory.md R62). -/
def memWrite (off : Off) (v : Word) (s : State) : Except Refusal State :=
  if aligned off then
    match regAt s.cfg off with
    | some r => .ok (writeReg r v s)
    | none => .ok s
  else .error .misaligned

/-- The byte a byte-addressed bridge sees at a byte address of the window: byte `off + k` of a register is its bits
`[8k+7:8k]` (20_memory.md R64). -/
def windowByte (addr : Off) (s : State) : Byte :=
  match memRead (addr &&& 0xFFC) s with
  | .ok v => v.extractLsb' (8 * (addr.toNat % 4)) 8
  | .error _ => 0

end Sys2Proof.Machine
end

