-- ==== Sys2Proof/Machine/Ops.lean ====
section
/-! DEFINITION. The operations the meanings share: a host read and a host write, the enabling condition of every agent step, the
reset of the block (20_memory.md R62; 30_encoding.md R101; 70_reset_and_hazards.md R280). The block has no exception to take and
none to return from (60_exceptions.md R250, R258). -/

namespace Sys2Proof.Machine

/-- The outcome of one operation. -/
abbrev StepOutcome := Host.Outcome State Fault Refusal

/-- A host read of a register: its value is returned and no element of the block changes (20_memory.md R62, R67, R74). -/
def hostRead (r : RegName) (s : State) : StepOutcome := .next { s with rdata := some (readReg r s) }

/-- A host write of a register: its write rule is performed and nothing is returned (20_memory.md R62, R74). -/
def hostWrite (r : RegName) (v : Word) (s : State) : StepOutcome := .next { writeReg r v s with rdata := none }

/-- A host read of an offset that names no register returns 0 (20_memory.md R62). -/
def hostReadUnmapped (s : State) : StepOutcome := .next { s with rdata := some 0 }

/-- A host write to an offset that names no register is ignored (20_memory.md R62). -/
def hostWriteUnmapped (s : State) : StepOutcome := .next { s with rdata := none }

/-- The enabling condition of every agent step (30_encoding.md R101 and the rule of each step). -/
def enabled (a : AgentStep) (s : State) : Bool :=
  match a with
  | .envPads _ _ => true
  | .syncA => s.syncA != s.padA
  | .syncB => s.syncB != s.padB
  | .encwConsumeRead => s.encwPh == .idle && s.evEnc.ef != 0
  | .encwConsumeClear => s.encwPh == .clear
  | .encwUpdate => s.encwPh == .update
  | .ledwConsumeRead => s.ledwPh == .idle && s.evLed.ef != 0
  | .ledwConsumeClear => s.ledwPh == .clear
  | .ledwStart => s.ledwPh == .start
  | .ledwTx => s.ledwPh == .tx
  | .tick => true
  | .reset _ _ => true

/-- The reset of the block, released with the pads at levels `a` and `b` (70_reset_and_hazards.md R280). The configuration is no
state, and the moves decided for later and the host's last answer are not the block's (assumption log 6). -/
def resetBlock (a b : Bool) (s : State) : State :=
  { s with
    padA := a
    padB := b
    syncA := a
    syncB := b
    prevSample := sampleOf a b
    raw := 0
    ext := 0
    extPrev := 0
    tLast := 0
    tPrev := 0
    time := 0
    seq := 0
    en := false
    latchMode := .fourL3
    clampEn := false
    minPos := -(2 ^ (s.cfg.rawW - 1))
    maxPos := 2 ^ (s.cfg.rawW - 1) - 1
    evEnc := ⟨0, 0, 0⟩
    evLed := ⟨0, 0, 0⟩
    evOther := List.replicate (s.cfg.nEfDomains - 2) ⟨0, 0, 0⟩
    encwPh := .idle
    ledwPh := .idle
    buf := List.replicate s.cfg.ledCap Colour.zero
    stage := List.replicate s.cfg.ledCap Colour.zero
    index := 0
    result := .ok
    txFrame := []
    txPos := 0
    dataPin := false
    clkPin := false
    trace := [] }

/-- The effect of an enabled agent step (30_encoding.md R101 and the rule of each step). -/
def agentEffect (a : AgentStep) (s : State) : State :=
  match a with
  -- 41_quadrature_decoder.md R150
  | .envPads a b => { s with padA := a, padB := b }
  -- 41_quadrature_decoder.md R151
  | .syncA => syncPadA s
  | .syncB => syncPadB s
  -- 40_event_flags.md R134, R135
  | .encwConsumeRead => { snapEvents .enc s with encwPh := .clear }
  | .encwConsumeClear => { clearEvents .enc s with encwPh := .update }
  -- 41_quadrature_decoder.md R152
  | .encwUpdate => { sampleEncoder s with encwPh := .idle }
  -- 40_event_flags.md R134, R135
  | .ledwConsumeRead => { snapEvents .led s with ledwPh := .clear }
  | .ledwConsumeClear => { clearEvents .led s with ledwPh := .start }
  -- 42_led_encoder.md R215, R216
  | .ledwStart => startFrame s
  | .ledwTx => transmit s
  -- 41_quadrature_decoder.md R170
  | .tick => { s with time := timeWord s.cfg (s.time.toNat + 1) }
  -- 70_reset_and_hazards.md R280
  | .reset a b => resetBlock a b s

/-- An agent given its turn takes its step when it is enabled; otherwise it waits and nothing changes (40_event_flags.md R134;
assumption log 2). -/
def agentTurn (a : AgentStep) (s : State) : StepOutcome :=
  .next (if enabled a s then agentEffect a s else s)

end Sys2Proof.Machine
end

