-- ==== Sys2Proof/Machine/AgentSteps.lean ====
section
/-! DEFINITION. The steps of ENV, the synchronisers, the two workers, TICK and RESET (30_encoding.md R101). -/

namespace Sys2Proof.Machine

/-- ENV_PADS: ENV sets the pad levels; always enabled (41_quadrature_decoder.md R150). -/
def execEnvPads (a b : Bool) (s : State) : StepOutcome := agentTurn (.envPads a b) s

/-- SYNC_A: SYNC_A copies pad A and, when `EN = 1`, raises `EDGE_A`; enabled when `SYNC_A ≠ PAD_A` (41_quadrature_decoder.md R151). -/
def execSyncA (s : State) : StepOutcome := agentTurn .syncA s

/-- SYNC_B: SYNC_B copies pad B and, when `EN = 1`, raises `EDGE_B`; enabled when `SYNC_B ≠ PAD_B` (41_quadrature_decoder.md R151). -/
def execSyncB (s : State) : StepOutcome := agentTurn .syncB s

/-- ENCW_CONSUME_READ: ENCW takes a snapshot of `EF[ENC]`; enabled when it is idle and the word is not zero (40_event_flags.md R134). -/
def execEncwConsumeRead (s : State) : StepOutcome := agentTurn .encwConsumeRead s

/-- ENCW_CONSUME_CLEAR: ENCW zeroes `EF[ENC]` and publishes the snapshot; enabled in phase CLEAR (40_event_flags.md R135). -/
def execEncwConsumeClear (s : State) : StepOutcome := agentTurn .encwConsumeClear s

/-- ENCW_UPDATE: ENCW runs `update()` and waits again; enabled in phase UPDATE (41_quadrature_decoder.md R152). -/
def execEncwUpdate (s : State) : StepOutcome := agentTurn .encwUpdate s

/-- LEDW_CONSUME_READ: LEDW takes a snapshot of `EF[LED]`; enabled when it is idle and the word is not zero (40_event_flags.md R134). -/
def execLedwConsumeRead (s : State) : StepOutcome := agentTurn .ledwConsumeRead s

/-- LEDW_CONSUME_CLEAR: LEDW zeroes `EF[LED]` and publishes the snapshot; enabled in phase CLEAR (40_event_flags.md R135). -/
def execLedwConsumeClear (s : State) : StepOutcome := agentTurn .ledwConsumeClear s

/-- LEDW_START: LEDW snapshots the strip into a frame; enabled in phase START (42_led_encoder.md R215). -/
def execLedwStart (s : State) : StepOutcome := agentTurn .ledwStart s

/-- LEDW_TX: LEDW sends the next pin event of its frame; enabled in phase TX (42_led_encoder.md R216). -/
def execLedwTx (s : State) : StepOutcome := agentTurn .ledwTx s

/-- TICK: `TIME <- (TIME + 1) mod 2^TS_W`; always enabled (41_quadrature_decoder.md R170). -/
def execTick (s : State) : StepOutcome := agentTurn .tick s

/-- RESET: the reset of the block with the pads at levels `a`, `b`; enabled whenever the host asserts it (70_reset_and_hazards.md R280). -/
def execReset (a b : Bool) (s : State) : StepOutcome := agentTurn (.reset a b) s

end Sys2Proof.Machine
end

