-- ==== Sys2Proof/Machine/BusRows.lean ====
section
/-! DEFINITION. Unmapped offsets and refused transactions (20_memory.md R62, R63; 60_exceptions.md R254, R257). -/

namespace Sys2Proof.Machine

/-- RD_UNMAPPED: returns 0 (20_memory.md R62). -/
def execRdUnmapped (_off : Off) (_data : Word) (s : State) : StepOutcome := hostReadUnmapped s

/-- WR_UNMAPPED: no effect (20_memory.md R62). -/
def execWrUnmapped (_off : Off) (_data : Word) (s : State) : StepOutcome := hostWriteUnmapped s

/-- REFUSED_CMD_2_3: the transaction has no meaning and no step is taken (20_memory.md R63, 60_exceptions.md R254). -/
def execRefusedCmd2to3 (_cmd : BitVec 4) (_off : Off) (_data : Word) (_s : State) : StepOutcome := .refused .reservedCommand

/-- REFUSED_CMD_4_7: the transaction has no meaning and no step is taken (20_memory.md R63, 60_exceptions.md R254). -/
def execRefusedCmd4to7 (_cmd : BitVec 4) (_off : Off) (_data : Word) (_s : State) : StepOutcome := .refused .reservedCommand

/-- REFUSED_CMD_8_15: the transaction has no meaning and no step is taken (20_memory.md R63, 60_exceptions.md R254). -/
def execRefusedCmd8to15 (_cmd : BitVec 4) (_off : Off) (_data : Word) (_s : State) : StepOutcome := .refused .reservedCommand

/-- REFUSED_MISALIGNED_OFF0: the transaction has no meaning and no step is taken (20_memory.md R63, 60_exceptions.md R254). -/
def execRefusedMisalignedOff0 (_cmd : BitVec 4) (_off : Off) (_data : Word) (_s : State) : StepOutcome := .refused .misaligned

/-- REFUSED_MISALIGNED_OFF1: the transaction has no meaning and no step is taken (20_memory.md R63, 60_exceptions.md R254). -/
def execRefusedMisalignedOff1 (_cmd : BitVec 4) (_off : Off) (_data : Word) (_s : State) : StepOutcome := .refused .misaligned

end Sys2Proof.Machine
end

