-- ==== Sys2Proof/Machine/EncoderRegs.lean ====
section
/-! DEFINITION. The host reads and writes of the encoder registers and of TIME (41_quadrature_decoder.md, 30_encoding.md R92). -/

namespace Sys2Proof.Machine

/-- RD_ENC_CTRL: returns `ENC_CTRL` (41_quadrature_decoder.md R164). -/
def execRdEncCtrl (_data : Word) (s : State) : StepOutcome := hostRead .encCtrl s

/-- WR_ENC_CTRL: performs the write rule of `ENC_CTRL` (41_quadrature_decoder.md R161). -/
def execWrEncCtrl (data : Word) (s : State) : StepOutcome := hostWrite .encCtrl data s

/-- RD_ENC_MIN: returns `ENC_MIN` (41_quadrature_decoder.md R165). -/
def execRdEncMin (_data : Word) (s : State) : StepOutcome := hostRead .encMin s

/-- WR_ENC_MIN: performs the write rule of `ENC_MIN` (41_quadrature_decoder.md R162). -/
def execWrEncMin (data : Word) (s : State) : StepOutcome := hostWrite .encMin data s

/-- RD_ENC_MAX: returns `ENC_MAX` (41_quadrature_decoder.md R166). -/
def execRdEncMax (_data : Word) (s : State) : StepOutcome := hostRead .encMax s

/-- WR_ENC_MAX: performs the write rule of `ENC_MAX` (41_quadrature_decoder.md R163). -/
def execWrEncMax (data : Word) (s : State) : StepOutcome := hostWrite .encMax data s

/-- RD_ENC_RAW: returns `ENC_RAW` (41_quadrature_decoder.md R167). -/
def execRdEncRaw (_data : Word) (s : State) : StepOutcome := hostRead .encRaw s

/-- WR_ENC_RAW: a read-only register ignores the write (30_encoding.md R92). -/
def execWrEncRaw (data : Word) (s : State) : StepOutcome := hostWrite .encRaw data s

/-- RD_ENC_POS: returns `ENC_POS` (41_quadrature_decoder.md R168). -/
def execRdEncPos (_data : Word) (s : State) : StepOutcome := hostRead .encPos s

/-- WR_ENC_POS: performs the write rule of `ENC_POS` (41_quadrature_decoder.md R160). -/
def execWrEncPos (data : Word) (s : State) : StepOutcome := hostWrite .encPos data s

/-- RD_ENC_POS_PREV: returns `ENC_POS_PREV` (41_quadrature_decoder.md R169). -/
def execRdEncPosPrev (_data : Word) (s : State) : StepOutcome := hostRead .encPosPrev s

/-- WR_ENC_POS_PREV: a read-only register ignores the write (30_encoding.md R92). -/
def execWrEncPosPrev (data : Word) (s : State) : StepOutcome := hostWrite .encPosPrev data s

/-- RD_ENC_STATUS: returns `ENC_STATUS` (41_quadrature_decoder.md R174). -/
def execRdEncStatus (_data : Word) (s : State) : StepOutcome := hostRead .encStatus s

/-- WR_ENC_STATUS: a read-only register ignores the write (30_encoding.md R92). -/
def execWrEncStatus (data : Word) (s : State) : StepOutcome := hostWrite .encStatus data s

/-- RD_ENC_T_LAST: returns `ENC_T_LAST` (41_quadrature_decoder.md R172). -/
def execRdEncTLast (_data : Word) (s : State) : StepOutcome := hostRead .encTLast s

/-- WR_ENC_T_LAST: a read-only register ignores the write (30_encoding.md R92). -/
def execWrEncTLast (data : Word) (s : State) : StepOutcome := hostWrite .encTLast data s

/-- RD_ENC_T_PREV: returns `ENC_T_PREV` (41_quadrature_decoder.md R173). -/
def execRdEncTPrev (_data : Word) (s : State) : StepOutcome := hostRead .encTPrev s

/-- WR_ENC_T_PREV: a read-only register ignores the write (30_encoding.md R92). -/
def execWrEncTPrev (data : Word) (s : State) : StepOutcome := hostWrite .encTPrev data s

/-- RD_ENC_SEQ: returns `ENC_SEQ` (41_quadrature_decoder.md R175). -/
def execRdEncSeq (_data : Word) (s : State) : StepOutcome := hostRead .encSeq s

/-- WR_ENC_SEQ: a read-only register ignores the write (30_encoding.md R92). -/
def execWrEncSeq (data : Word) (s : State) : StepOutcome := hostWrite .encSeq data s

/-- RD_TIME: returns `TIME` (41_quadrature_decoder.md R176). -/
def execRdTime (_data : Word) (s : State) : StepOutcome := hostRead .time s

/-- WR_TIME: a read-only register ignores the write (30_encoding.md R92). -/
def execWrTime (data : Word) (s : State) : StepOutcome := hostWrite .time data s

end Sys2Proof.Machine
end

