-- ==== Sys2Proof/Machine/EventRegs.lean ====
section
/-! DEFINITION. The host reads and writes of the event-flag registers (40_event_flags.md R125, R126, R127). -/

namespace Sys2Proof.Machine

/-- RD_EF_ENC: returns `EF_ENC` (40_event_flags.md R125). -/
def execRdEfEnc (_data : Word) (s : State) : StepOutcome := hostRead .efEnc s

/-- WR_EF_ENC: performs the write rule of `EF_ENC` (40_event_flags.md R126). -/
def execWrEfEnc (data : Word) (s : State) : StepOutcome := hostWrite .efEnc data s

/-- RD_EF_LED: returns `EF_LED` (40_event_flags.md R125). -/
def execRdEfLed (_data : Word) (s : State) : StepOutcome := hostRead .efLed s

/-- WR_EF_LED: performs the write rule of `EF_LED` (40_event_flags.md R126). -/
def execWrEfLed (data : Word) (s : State) : StepOutcome := hostWrite .efLed data s

/-- RD_EF_ENC_LAST: returns `EF_ENC_LAST` (40_event_flags.md R127). -/
def execRdEfEncLast (_data : Word) (s : State) : StepOutcome := hostRead .efEncLast s

/-- WR_EF_ENC_LAST: a read-only register ignores the write (30_encoding.md R92). -/
def execWrEfEncLast (data : Word) (s : State) : StepOutcome := hostWrite .efEncLast data s

/-- RD_EF_LED_LAST: returns `EF_LED_LAST` (40_event_flags.md R127). -/
def execRdEfLedLast (_data : Word) (s : State) : StepOutcome := hostRead .efLedLast s

/-- WR_EF_LED_LAST: a read-only register ignores the write (30_encoding.md R92). -/
def execWrEfLedLast (data : Word) (s : State) : StepOutcome := hostWrite .efLedLast data s

end Sys2Proof.Machine
end

