-- ==== Sys2Proof/Machine/LedRegs.lean ====
section
/-! DEFINITION. The host reads and writes of the LED registers and array windows (42_led_encoder.md). -/

namespace Sys2Proof.Machine

/-- RD_LED_LEN: returns `LED_LEN` (42_led_encoder.md R207). -/
def execRdLedLen (_data : Word) (s : State) : StepOutcome := hostRead .ledLen s

/-- WR_LED_LEN: a read-only register ignores the write (30_encoding.md R92). -/
def execWrLedLen (data : Word) (s : State) : StepOutcome := hostWrite .ledLen data s

/-- RD_LED_CAP: returns `LED_CAP` (42_led_encoder.md R208). -/
def execRdLedCap (_data : Word) (s : State) : StepOutcome := hostRead .ledCap s

/-- WR_LED_CAP: a read-only register ignores the write (30_encoding.md R92). -/
def execWrLedCap (data : Word) (s : State) : StepOutcome := hostWrite .ledCap data s

/-- RD_LED_RESULT: returns `LED_RESULT` (42_led_encoder.md R209). -/
def execRdLedResult (_data : Word) (s : State) : StepOutcome := hostRead .ledResult s

/-- WR_LED_RESULT: a read-only register ignores the write (30_encoding.md R92). -/
def execWrLedResult (data : Word) (s : State) : StepOutcome := hostWrite .ledResult data s

/-- RD_LED_STATUS: returns `LED_STATUS` (42_led_encoder.md R213). -/
def execRdLedStatus (_data : Word) (s : State) : StepOutcome := hostRead .ledStatus s

/-- WR_LED_STATUS: a read-only register ignores the write (30_encoding.md R92). -/
def execWrLedStatus (data : Word) (s : State) : StepOutcome := hostWrite .ledStatus data s

/-- RD_LED_INDEX: returns `LED_INDEX` (42_led_encoder.md R204). -/
def execRdLedIndex (_data : Word) (s : State) : StepOutcome := hostRead .ledIndex s

/-- WR_LED_INDEX: performs the write rule of `LED_INDEX` (42_led_encoder.md R200). -/
def execWrLedIndex (data : Word) (s : State) : StepOutcome := hostWrite .ledIndex data s

/-- RD_LED_SET_ONE: a write-only register reads 0 (30_encoding.md R92). -/
def execRdLedSetOne (_data : Word) (s : State) : StepOutcome := hostRead .ledSetOne s

/-- WR_LED_SET_ONE: performs the write rule of `LED_SET_ONE` (42_led_encoder.md R201). -/
def execWrLedSetOne (data : Word) (s : State) : StepOutcome := hostWrite .ledSetOne data s

/-- RD_LED_SET_ALL: a write-only register reads 0 (30_encoding.md R92). -/
def execRdLedSetAll (_data : Word) (s : State) : StepOutcome := hostRead .ledSetAll s

/-- WR_LED_SET_ALL: performs the write rule of `LED_SET_ALL` (42_led_encoder.md R202). -/
def execWrLedSetAll (data : Word) (s : State) : StepOutcome := hostWrite .ledSetAll data s

/-- RD_LED_STAGE: the colour word of the element; unmapped when `i ≥ LED_CAP` (42_led_encoder.md R205, 30_encoding.md R100). -/
def execRdLedStage (i : BitVec 8) (_data : Word) (s : State) : StepOutcome := hostRead (.ledStage i) s

/-- WR_LED_STAGE: the element takes the colour of `DATA`; unmapped when `i ≥ LED_CAP` (42_led_encoder.md R203, 30_encoding.md R100). -/
def execWrLedStage (i : BitVec 8) (data : Word) (s : State) : StepOutcome := hostWrite (.ledStage i) data s

/-- RD_LED_BUF: the colour word of the element; unmapped when `i ≥ LED_CAP` (42_led_encoder.md R206, 30_encoding.md R100). -/
def execRdLedBuf (i : BitVec 8) (_data : Word) (s : State) : StepOutcome := hostRead (.ledBuf i) s

/-- WR_LED_BUF: a read-only element ignores the write; unmapped when `i ≥ LED_CAP` (30_encoding.md R92, 30_encoding.md R100). -/
def execWrLedBuf (i : BitVec 8) (data : Word) (s : State) : StepOutcome := hostWrite (.ledBuf i) data s

end Sys2Proof.Machine
end

