-- ==== Sys2Proof/Machine/Dispatch.lean ====
section
/-! DEFINITION. Every operation and its meaning: one arm per row of spec/opcode_table.json. -/

namespace Sys2Proof.Machine

/-- The effect of one operation on the block. -/
def exec (i : Instr) (s : State) : Host.Outcome State Fault Refusal :=
  match i with
  | .rdEncCtrl data => Sys2Proof.Machine.execRdEncCtrl data s
  | .wrEncCtrl data => Sys2Proof.Machine.execWrEncCtrl data s
  | .rdEncMin data => Sys2Proof.Machine.execRdEncMin data s
  | .wrEncMin data => Sys2Proof.Machine.execWrEncMin data s
  | .rdEncMax data => Sys2Proof.Machine.execRdEncMax data s
  | .wrEncMax data => Sys2Proof.Machine.execWrEncMax data s
  | .rdEncRaw data => Sys2Proof.Machine.execRdEncRaw data s
  | .wrEncRaw data => Sys2Proof.Machine.execWrEncRaw data s
  | .rdEncPos data => Sys2Proof.Machine.execRdEncPos data s
  | .wrEncPos data => Sys2Proof.Machine.execWrEncPos data s
  | .rdEncPosPrev data => Sys2Proof.Machine.execRdEncPosPrev data s
  | .wrEncPosPrev data => Sys2Proof.Machine.execWrEncPosPrev data s
  | .rdEncStatus data => Sys2Proof.Machine.execRdEncStatus data s
  | .wrEncStatus data => Sys2Proof.Machine.execWrEncStatus data s
  | .rdEncTLast data => Sys2Proof.Machine.execRdEncTLast data s
  | .wrEncTLast data => Sys2Proof.Machine.execWrEncTLast data s
  | .rdEncTPrev data => Sys2Proof.Machine.execRdEncTPrev data s
  | .wrEncTPrev data => Sys2Proof.Machine.execWrEncTPrev data s
  | .rdEncSeq data => Sys2Proof.Machine.execRdEncSeq data s
  | .wrEncSeq data => Sys2Proof.Machine.execWrEncSeq data s
  | .rdTime data => Sys2Proof.Machine.execRdTime data s
  | .wrTime data => Sys2Proof.Machine.execWrTime data s
  | .rdEfEnc data => Sys2Proof.Machine.execRdEfEnc data s
  | .wrEfEnc data => Sys2Proof.Machine.execWrEfEnc data s
  | .rdEfLed data => Sys2Proof.Machine.execRdEfLed data s
  | .wrEfLed data => Sys2Proof.Machine.execWrEfLed data s
  | .rdEfEncLast data => Sys2Proof.Machine.execRdEfEncLast data s
  | .wrEfEncLast data => Sys2Proof.Machine.execWrEfEncLast data s
  | .rdEfLedLast data => Sys2Proof.Machine.execRdEfLedLast data s
  | .wrEfLedLast data => Sys2Proof.Machine.execWrEfLedLast data s
  | .rdLedLen data => Sys2Proof.Machine.execRdLedLen data s
  | .wrLedLen data => Sys2Proof.Machine.execWrLedLen data s
  | .rdLedCap data => Sys2Proof.Machine.execRdLedCap data s
  | .wrLedCap data => Sys2Proof.Machine.execWrLedCap data s
  | .rdLedResult data => Sys2Proof.Machine.execRdLedResult data s
  | .wrLedResult data => Sys2Proof.Machine.execWrLedResult data s
  | .rdLedStatus data => Sys2Proof.Machine.execRdLedStatus data s
  | .wrLedStatus data => Sys2Proof.Machine.execWrLedStatus data s
  | .rdLedIndex data => Sys2Proof.Machine.execRdLedIndex data s
  | .wrLedIndex data => Sys2Proof.Machine.execWrLedIndex data s
  | .rdLedSetOne data => Sys2Proof.Machine.execRdLedSetOne data s
  | .wrLedSetOne data => Sys2Proof.Machine.execWrLedSetOne data s
  | .rdLedSetAll data => Sys2Proof.Machine.execRdLedSetAll data s
  | .wrLedSetAll data => Sys2Proof.Machine.execWrLedSetAll data s
  | .rdLedStage k data => Sys2Proof.Machine.execRdLedStage k data s
  | .wrLedStage k data => Sys2Proof.Machine.execWrLedStage k data s
  | .rdLedBuf k data => Sys2Proof.Machine.execRdLedBuf k data s
  | .wrLedBuf k data => Sys2Proof.Machine.execWrLedBuf k data s
  | .rdUnmapped off data => Sys2Proof.Machine.execRdUnmapped off data s
  | .wrUnmapped off data => Sys2Proof.Machine.execWrUnmapped off data s
  | .refusedCmd2to3 cmd off data => Sys2Proof.Machine.execRefusedCmd2to3 cmd off data s
  | .refusedCmd4to7 cmd off data => Sys2Proof.Machine.execRefusedCmd4to7 cmd off data s
  | .refusedCmd8to15 cmd off data => Sys2Proof.Machine.execRefusedCmd8to15 cmd off data s
  | .refusedMisalignedOff0 cmd off data => Sys2Proof.Machine.execRefusedMisalignedOff0 cmd off data s
  | .refusedMisalignedOff1 cmd off data => Sys2Proof.Machine.execRefusedMisalignedOff1 cmd off data s
  | .envPads a b => Sys2Proof.Machine.execEnvPads a b s
  | .syncA => Sys2Proof.Machine.execSyncA s
  | .syncB => Sys2Proof.Machine.execSyncB s
  | .encwConsumeRead => Sys2Proof.Machine.execEncwConsumeRead s
  | .encwConsumeClear => Sys2Proof.Machine.execEncwConsumeClear s
  | .encwUpdate => Sys2Proof.Machine.execEncwUpdate s
  | .ledwConsumeRead => Sys2Proof.Machine.execLedwConsumeRead s
  | .ledwConsumeClear => Sys2Proof.Machine.execLedwConsumeClear s
  | .ledwStart => Sys2Proof.Machine.execLedwStart s
  | .ledwTx => Sys2Proof.Machine.execLedwTx s
  | .tick => Sys2Proof.Machine.execTick s
  | .reset a b => Sys2Proof.Machine.execReset a b s

end Sys2Proof.Machine
end

