-- ==== Sys2Proof/Decode.lean ====
section
/-! DEFINITION. Decoding of transaction words and its inverse (30_encoding.md R90, R92, R100, R102; 60_exceptions.md R257). -/

namespace Sys2Proof

/-- `CMD`, bits [47:44] (30_encoding.md R90). -/
def cmdOf (w : TxWord) : BitVec 4 := w.extractLsb' 44 4

/-- `OFF`, bits [43:32] (30_encoding.md R90). -/
def offOf (w : TxWord) : Off := w.extractLsb' 32 12

/-- `DATA`, bits [31:0] (30_encoding.md R90). -/
def dataOf (w : TxWord) : Word := w.extractLsb' 0 32

/-- The transaction word with these three fields (30_encoding.md R90). -/
def txWord (cmd : BitVec 4) (off : Off) (data : Word) : TxWord := (cmd ++ off) ++ data

/-- The element index `i = OFF[9:2]` of an array window (30_encoding.md R100). -/
def indexOf (off : Off) : BitVec 8 := off.extractLsb' 2 8

/-- The offset `0x400 + 4i` of `LED_STAGE[i]` (30_encoding.md R92). -/
def stageOff (i : BitVec 8) : Off := (1#2 ++ i) ++ 0#2

/-- The offset `0x800 + 4i` of `LED_BUF[i]` (30_encoding.md R92). -/
def bufOff (i : BitVec 8) : Off := (2#2 ++ i) ++ 0#2

/-- The named register read at an aligned offset outside the array windows, or RD_UNMAPPED (30_encoding.md R92). -/
def decodeNamedRead (off : Off) (data : Word) : Instr :=
  match off with
  | 0x000#12 => .rdEncCtrl data
  | 0x004#12 => .rdEncMin data
  | 0x008#12 => .rdEncMax data
  | 0x00C#12 => .rdEncRaw data
  | 0x010#12 => .rdEncPos data
  | 0x014#12 => .rdEncPosPrev data
  | 0x018#12 => .rdEncStatus data
  | 0x01C#12 => .rdEncTLast data
  | 0x020#12 => .rdEncTPrev data
  | 0x024#12 => .rdEncSeq data
  | 0x028#12 => .rdTime data
  | 0x040#12 => .rdEfEnc data
  | 0x044#12 => .rdEfLed data
  | 0x048#12 => .rdEfEncLast data
  | 0x04C#12 => .rdEfLedLast data
  | 0x080#12 => .rdLedLen data
  | 0x084#12 => .rdLedCap data
  | 0x088#12 => .rdLedResult data
  | 0x08C#12 => .rdLedStatus data
  | 0x090#12 => .rdLedIndex data
  | 0x094#12 => .rdLedSetOne data
  | 0x098#12 => .rdLedSetAll data
  | _ => .rdUnmapped off data

/-- The named register written at an aligned offset outside the array windows, or WR_UNMAPPED (30_encoding.md R92). -/
def decodeNamedWrite (off : Off) (data : Word) : Instr :=
  match off with
  | 0x000#12 => .wrEncCtrl data
  | 0x004#12 => .wrEncMin data
  | 0x008#12 => .wrEncMax data
  | 0x00C#12 => .wrEncRaw data
  | 0x010#12 => .wrEncPos data
  | 0x014#12 => .wrEncPosPrev data
  | 0x018#12 => .wrEncStatus data
  | 0x01C#12 => .wrEncTLast data
  | 0x020#12 => .wrEncTPrev data
  | 0x024#12 => .wrEncSeq data
  | 0x028#12 => .wrTime data
  | 0x040#12 => .wrEfEnc data
  | 0x044#12 => .wrEfLed data
  | 0x048#12 => .wrEfEncLast data
  | 0x04C#12 => .wrEfLedLast data
  | 0x080#12 => .wrLedLen data
  | 0x084#12 => .wrLedCap data
  | 0x088#12 => .wrLedResult data
  | 0x08C#12 => .wrLedStatus data
  | 0x090#12 => .wrLedIndex data
  | 0x094#12 => .wrLedSetOne data
  | 0x098#12 => .wrLedSetAll data
  | _ => .wrUnmapped off data

/-- A read at an aligned offset: the array windows first (30_encoding.md R100), then the named registers. -/
def decodeRead (off : Off) (data : Word) : Instr :=
  if off.extractLsb' 10 2 = 1 then .rdLedStage (indexOf off) data
  else if off.extractLsb' 10 2 = 2 then .rdLedBuf (indexOf off) data
  else decodeNamedRead off data

/-- A write at an aligned offset: the array windows first (30_encoding.md R100), then the named registers. -/
def decodeWrite (off : Off) (data : Word) : Instr :=
  if off.extractLsb' 10 2 = 1 then .wrLedStage (indexOf off) data
  else if off.extractLsb' 10 2 = 2 then .wrLedBuf (indexOf off) data
  else decodeNamedWrite off data

/-- The row of spec/opcode_table.json that given fields select. A reserved command takes precedence over a misaligned offset
(60_exceptions.md R257). -/
def decodeFields (cmd : BitVec 4) (off : Off) (data : Word) : Instr :=
  if 8 ≤ cmd.toNat then .refusedCmd8to15 cmd off data
  else if 4 ≤ cmd.toNat then .refusedCmd4to7 cmd off data
  else if 2 ≤ cmd.toNat then .refusedCmd2to3 cmd off data
  else if off.getLsbD 0 then .refusedMisalignedOff0 cmd off data
  else if off.getLsbD 1 then .refusedMisalignedOff1 cmd off data
  else if cmd = 0 then decodeRead off data
  else decodeWrite off data

/-- Every 48-bit word is exactly one row: the words without a meaning are the REFUSED rows (30_encoding.md R102). -/
def decode (w : TxWord) : Instr := decodeFields (cmdOf w) (offOf w) (dataOf w)

/-- The transaction word of an operation, from the encoding tables of 30_encoding.md R90, R92 and R100; an agent step has none
(R101). -/
def encode : Instr → Option TxWord
  | .rdEncCtrl data => some (txWord 0 0x000 data)
  | .wrEncCtrl data => some (txWord 1 0x000 data)
  | .rdEncMin data => some (txWord 0 0x004 data)
  | .wrEncMin data => some (txWord 1 0x004 data)
  | .rdEncMax data => some (txWord 0 0x008 data)
  | .wrEncMax data => some (txWord 1 0x008 data)
  | .rdEncRaw data => some (txWord 0 0x00C data)
  | .wrEncRaw data => some (txWord 1 0x00C data)
  | .rdEncPos data => some (txWord 0 0x010 data)
  | .wrEncPos data => some (txWord 1 0x010 data)
  | .rdEncPosPrev data => some (txWord 0 0x014 data)
  | .wrEncPosPrev data => some (txWord 1 0x014 data)
  | .rdEncStatus data => some (txWord 0 0x018 data)
  | .wrEncStatus data => some (txWord 1 0x018 data)
  | .rdEncTLast data => some (txWord 0 0x01C data)
  | .wrEncTLast data => some (txWord 1 0x01C data)
  | .rdEncTPrev data => some (txWord 0 0x020 data)
  | .wrEncTPrev data => some (txWord 1 0x020 data)
  | .rdEncSeq data => some (txWord 0 0x024 data)
  | .wrEncSeq data => some (txWord 1 0x024 data)
  | .rdTime data => some (txWord 0 0x028 data)
  | .wrTime data => some (txWord 1 0x028 data)
  | .rdEfEnc data => some (txWord 0 0x040 data)
  | .wrEfEnc data => some (txWord 1 0x040 data)
  | .rdEfLed data => some (txWord 0 0x044 data)
  | .wrEfLed data => some (txWord 1 0x044 data)
  | .rdEfEncLast data => some (txWord 0 0x048 data)
  | .wrEfEncLast data => some (txWord 1 0x048 data)
  | .rdEfLedLast data => some (txWord 0 0x04C data)
  | .wrEfLedLast data => some (txWord 1 0x04C data)
  | .rdLedLen data => some (txWord 0 0x080 data)
  | .wrLedLen data => some (txWord 1 0x080 data)
  | .rdLedCap data => some (txWord 0 0x084 data)
  | .wrLedCap data => some (txWord 1 0x084 data)
  | .rdLedResult data => some (txWord 0 0x088 data)
  | .wrLedResult data => some (txWord 1 0x088 data)
  | .rdLedStatus data => some (txWord 0 0x08C data)
  | .wrLedStatus data => some (txWord 1 0x08C data)
  | .rdLedIndex data => some (txWord 0 0x090 data)
  | .wrLedIndex data => some (txWord 1 0x090 data)
  | .rdLedSetOne data => some (txWord 0 0x094 data)
  | .wrLedSetOne data => some (txWord 1 0x094 data)
  | .rdLedSetAll data => some (txWord 0 0x098 data)
  | .wrLedSetAll data => some (txWord 1 0x098 data)
  | .rdLedStage i data => some (txWord 0 (stageOff i) data)
  | .wrLedStage i data => some (txWord 1 (stageOff i) data)
  | .rdLedBuf i data => some (txWord 0 (bufOff i) data)
  | .wrLedBuf i data => some (txWord 1 (bufOff i) data)
  | .rdUnmapped off data => some (txWord 0 off data)
  | .wrUnmapped off data => some (txWord 1 off data)
  | .refusedCmd2to3 cmd off data => some (txWord cmd off data)
  | .refusedCmd4to7 cmd off data => some (txWord cmd off data)
  | .refusedCmd8to15 cmd off data => some (txWord cmd off data)
  | .refusedMisalignedOff0 cmd off data => some (txWord cmd off data)
  | .refusedMisalignedOff1 cmd off data => some (txWord cmd off data)
  | .envPads _ _ => none
  | .syncA => none
  | .syncB => none
  | .encwConsumeRead => none
  | .encwConsumeClear => none
  | .encwUpdate => none
  | .ledwConsumeRead => none
  | .ledwConsumeClear => none
  | .ledwStart => none
  | .ledwTx => none
  | .tick => none
  | .reset _ _ => none

/-- Why a number of bits is no transaction word. -/
inductive DecodeError where
  /-- More than 48 bits, or a value that does not fit in 48: the transaction word is fixed-length (30_encoding.md R90). -/
  | notTransactionWord
deriving DecidableEq, Repr

/-- A number as a transaction word, bit 0 the least significant bit (30_encoding.md R90). -/
def wordOfNat (w : Nat) : TxWord := BitVec.ofNat 48 w

/-- Decoding of `nbits` bits with value `w`, rejecting by name what is no transaction word (30_encoding.md R90). -/
def decodeBits (nbits w : Nat) : Except DecodeError Instr :=
  if nbits ≤ 48 ∧ w < 2 ^ 48 then .ok (decode (wordOfNat w)) else .error .notTransactionWord

/-- The row the decoder reads from an instruction whose bits are `w` (assumption log 17). -/
def decodeTableWord (nbits w : Nat) : Option Instr := (decodeBits nbits w).toOption

end Sys2Proof
end

