-- ==== Sys2Proof/Machine/Fetch.lean ====
section
/-! DEFINITION. Which move is taken next (00_scope.md R5, 20_memory.md R69): the oldest decided one, or a freely drawn one
(assumption log 1). -/

namespace Sys2Proof.Machine

/-- The operation a move is: the decoded transaction word, or the agent's step. -/
def moveInstr : Move → Instr
  | .bus w => decode w
  | .agent a => a.toInstr

/-- The next move, and the state with that move taken off the agenda or drawn. -/
def takeMove (s : State) : Move × State :=
  match s.agenda with
  | m :: ms => (m, { s with agenda := ms })
  | [] => (Config.freeMove s.draws, { s with draws := s.draws + 1 })

end Sys2Proof.Machine
end

