-- ==== Sys2Proof/Machine/Step.lean ====
section
/-! DEFINITION. One step of the block: one move of one agent (00_scope.md R5). -/

namespace Sys2Proof.Machine

/-- One atomic step: the next move, executed. -/
def step (s : State) : Host.Outcome State Fault Refusal :=
  exec (moveInstr (takeMove s).1) (takeMove s).2

/-- `s` with the transaction word of bits `w` presented by the host as the very next move (assumption log 16). -/
def State.withFetchWord (s : State) (_nbits w : Nat) : State :=
  { s with agenda := .bus (wordOfNat w) :: s.agenda }

end Sys2Proof.Machine
end

