-- ==== Sys2Proof/Machine/Program.lean ====
section
/-! DEFINITION. The directives and pseudo-instructions of host programs (30_encoding.md R103, R104), and the work the internal
agents have left (70_reset_and_hazards.md R285). `settle` and `run` are one schedule; `step` admits every other one. -/

namespace Sys2Proof.Machine

/-- `rd NAME` (30_encoding.md R103). -/
def rd (r : RegName) : Move := .bus (txWord 0 r.offset 0)

/-- `wr NAME, v` (30_encoding.md R103). -/
def wr (r : RegName) (v : Word) : Move := .bus (txWord 1 r.offset v)

/-- The steps of the internal agents SYNC_A, SYNC_B, ENCW and LEDW, in the order of `settle` (30_encoding.md R103). -/
def internalSteps : List AgentStep :=
  [.syncA, .syncB, .encwConsumeRead, .encwConsumeClear, .encwUpdate, .ledwConsumeRead, .ledwConsumeClear, .ledwStart, .ledwTx]

/-- The steps of one worker; a further domain has no worker in the block (00_scope.md R4; assumption log 13). -/
def workerSteps : Domain → List AgentStep
  | .enc => [.encwConsumeRead, .encwConsumeClear, .encwUpdate]
  | .led => [.ledwConsumeRead, .ledwConsumeClear, .ledwStart, .ledwTx]
  | .other _ => []

/-- The state after an agent's turn. -/
def afterTurn (a : AgentStep) (s : State) : State :=
  match exec a.toInstr s with
  | .next t => t
  | .fault _ => s
  | .refused _ => s

/-- At most `fuel` enabled steps out of a list, the first enabled one each time. -/
def runSteps (steps : List AgentStep) : Nat → State → State
  | 0, s => s
  | fuel + 1, s =>
    match steps.find? (fun a => enabled a s) with
    | some a => runSteps steps fuel (afterTurn a s)
    | none => s

/-- How many steps the synchronisers have left, with the events they may raise. -/
def syncWork (s : State) : Nat := (if s.syncA = s.padA then 0 else 4) + (if s.syncB = s.padB then 0 else 4)

/-- How many steps ENCW has left, with the events now pending. -/
def encWork (s : State) : Nat :=
  match s.encwPh with
  | .idle => if s.evEnc.ef = 0 then 0 else 3
  | .clear => 2
  | .update => if s.evEnc.ef = 0 then 1 else 4

/-- How many steps a pending `EF[LED]` costs LEDW: a consume, a start and a frame. -/
def ledPending (s : State) : Nat := if s.evLed.ef = 0 then 0 else frameEvents s.len + 3

/-- How many steps LEDW has left, with the events now pending. -/
def ledWork (s : State) : Nat :=
  match s.ledwPh with
  | .idle => ledPending s
  | .clear => frameEvents s.len + 2
  | .start => frameEvents s.len + 1 + ledPending s
  | .tx => (s.txFrame.length - s.txPos) + ledPending s

/-- A bound on the internal steps left once HOST and ENV stop (70_reset_and_hazards.md R285). -/
def workLeft (s : State) : Nat := syncWork s + encWork s + ledWork s

/-- `settle`: enabled SYNC, ENCW and LEDW steps, in that order, until none is enabled (30_encoding.md R103; assumption log 20). -/
def settle (s : State) : State := runSteps internalSteps (workLeft s) s

/-- `run ENCW`, `run LEDW`: the worker's enabled steps until it is idle with a zero word (30_encoding.md R103). -/
def runWorker (d : Domain) (s : State) : State := runSteps (workerSteps d) (workLeft s) s

/-- One line of a host program (30_encoding.md R103). -/
inductive Directive where
  /-- `rd`, `wr`, `pads`, `sync`, and a single worker step: one move. -/
  | move (m : Move)
  /-- `run ENCW`, `run LEDW`. -/
  | run (d : Domain)
  /-- `tick n`. -/
  | tick (n : Nat)
  /-- `settle`. -/
  | settle
deriving DecidableEq, Repr

/-- `pads a, b` (30_encoding.md R103). -/
def pads (a b : Bool) : Directive := .move (.agent (.envPads a b))

/-- One move, taken at once. -/
def perform (m : Move) (s : State) : StepOutcome := step { s with agenda := m :: s.agenda }

/-- `n` turns of one agent in a row. -/
def turns (a : AgentStep) : Nat → State → State
  | 0, s => s
  | n + 1, s => turns a n (afterTurn a s)

/-- Operations executed one after another, stopping at the first that is refused. -/
def execAll : List Instr → State → StepOutcome
  | [], s => .next s
  | i :: is, s =>
    match exec i s with
    | .next t => execAll is t
    | .fault f => .fault f
    | .refused r => .refused r

/-- The effect of one line of a host program (30_encoding.md R103). -/
def runDirective (d : Directive) (s : State) : StepOutcome :=
  match d with
  | .move m => perform m s
  | .run w => .next (runWorker w s)
  | .tick n => .next (turns .tick n s)
  | .settle => .next (settle s)

/-- The lines of a host program in order, stopping at the first refused transaction. -/
def runProgram : List Directive → State → StepOutcome
  | [], s => .next s
  | d :: ds, s =>
    match runDirective d s with
    | .next t => runProgram ds t
    | .fault f => .fault f
    | .refused r => .refused r

/-- `led_set_one i, c` (30_encoding.md R104). -/
def ledSetOneProgram (i c : Word) : List Directive := [.move (wr .ledIndex i), .move (wr .ledSetOne c)]

/-- `wr LED_STAGE[i], c`: the offset is `0x400 + 4i` whatever `i` is, so it leaves the staging window from `i = 256` on
(30_encoding.md R103). -/
def stageWrite (i : Nat) (c : Word) : Directive := .move (.bus (txWord 1 (BitVec.ofNat 12 (0x400 + 4 * i)) c))

/-- The staging writes of `led_set_all`, from element `i` on. -/
def stageWrites : Nat → List Word → List Directive
  | _, [] => []
  | i, c :: cs => stageWrite i c :: stageWrites (i + 1) cs

/-- `led_set_all c0, ..., c(k-1)` (30_encoding.md R104). More than 768 colours have no expansion: the offset of the next one does
not fit in 12 bits (30_encoding.md R90; assumption log 25). -/
def ledSetAllProgram (cs : List Word) : Option (List Directive) :=
  if cs.length ≤ 768 then some (stageWrites 0 cs ++ [.move (wr .ledSetAll (BitVec.ofNat 32 cs.length))]) else none

/-- `enc_config en, mode, clamp, min, max` (30_encoding.md R104). -/
def encConfigProgram (en : Bool) (mode : BitVec 2) (clamp : Bool) (lo hi : Int) : List Directive :=
  [.move (wr .encMin (u32 lo)), .move (wr .encMax (u32 hi)),
   .move (wr .encCtrl (BitVec.ofNat 32 (en.toNat + 2 * mode.toNat + 8 * clamp.toNat)))]

/-- `ef_set ENC, m`, `ef_set LED, m` (30_encoding.md R104). -/
def efSetProgram (d : Domain) (m : Word) : List Directive :=
  match d with
  | .enc => [.move (wr .efEnc m)]
  | .led => [.move (wr .efLed m)]
  | .other _ => []

/-- The reads of one pass of `enc_snapshot`, the first and the last of them of `ENC_SEQ` (30_encoding.md R104). -/
def encSnapshotReads : List RegName := [.encSeq, .encPos, .encPosPrev, .encStatus, .encTLast, .encTPrev, .encSeq]

/-- One pass of `enc_snapshot` as lines of a host program. -/
def encSnapshotProgram : List Directive := encSnapshotReads.map fun r => .move (rd r)

/-- The state after turns of agents. -/
def afterTurns (as : List AgentStep) (s : State) : State := as.foldl (fun u a => afterTurn a u) s

/-- Host reads one after another, with what they return. Between any two of them other agents may move (20_memory.md R69): the
`k`-th list holds the turns taken before the `k`-th read, none once the lists are used up. -/
def readAll : List RegName → List (List AgentStep) → State → List Word × State
  | [], _, s => ([], s)
  | r :: rs, gaps, s =>
    match perform (rd r) (afterTurns (gaps.headD []) s) with
    | .next t => (t.rdata.getD 0 :: (readAll rs gaps.tail t).1, (readAll rs gaps.tail t).2)
    | .fault _ => ([], s)
    | .refused _ => ([], s)

/-- `enc_snapshot`: the pass is repeated while the two reads of `ENC_SEQ` differ (30_encoding.md R104, 70_reset_and_hazards.md
R291). The list says what the other agents do in each pass; none when the reads still differ in the last of them. -/
def encSnapshot : List (List (List AgentStep)) → State → Option (List Word × State)
  | [], _ => none
  | gaps :: passes, s =>
    if (readAll encSnapshotReads gaps s).1.head? = (readAll encSnapshotReads gaps s).1.getLast? then
      some (readAll encSnapshotReads gaps s)
    else encSnapshot passes (readAll encSnapshotReads gaps s).2

/-- `rotate_cw`: the sample sequence 0, 1, 3, 2, 0 (30_encoding.md R104). -/
def rotateCwProgram : List Directive :=
  [pads true false, .settle, pads true true, .settle, pads false true, .settle, pads false false, .settle]

/-- `rotate_ccw`: the sample sequence 0, 2, 3, 1, 0 (30_encoding.md R104). -/
def rotateCcwProgram : List Directive :=
  [pads false true, .settle, pads true true, .settle, pads true false, .settle, pads false false, .settle]

end Sys2Proof.Machine
end

