-- ==== Sys2Proof/Machine/Runs.lean ====
section
/-! DEFINITION. Infinite runs of the block and the weak fairness of its internal agents (00_scope.md R5, 40_event_flags.md R140,
70_reset_and_hazards.md R301). `step` admits every interleaving; the fair runs are those the spec speaks of. -/

namespace Sys2Proof.Machine

/-- The states `ss` are a run in which the moves `ms` are taken, the `n`-th from the `n`-th state. What is decided for later and
how it is drawn (`agenda`, `draws`) is no part of the block and may be anything. A refused transaction is no step, so no run
takes one (20_memory.md R63, R74). -/
def isRun (ms : Nat → Move) (ss : Nat → State) : Prop :=
  ∀ n, ∃ (ag : List Move) (d : Nat), exec (moveInstr (ms n)) { ss n with agenda := ag, draws := d } = .next (ss (n + 1))

/-- The internal agents are weakly fair: a step of SYNC_A, SYNC_B, ENCW or LEDW that stays enabled is eventually taken. Nothing is
required of HOST, ENV and TICK (00_scope.md R5). -/
def weaklyFair (ms : Nat → Move) (ss : Nat → State) : Prop :=
  ∀ a ∈ internalSteps, ∀ n, (∀ m, n ≤ m → enabled a (ss m) = true) → ∃ m, n ≤ m ∧ ms m = .agent a

/-- A fair run of the block (00_scope.md R5). -/
def fairRun (ms : Nat → Move) (ss : Nat → State) : Prop := isRun ms ss ∧ weaklyFair ms ss

/-- The moves that `step` takes from the states `ss`. -/
def movesOf (ss : Nat → State) : Nat → Move := fun n => (takeMove (ss n)).1

/-- The states `ss` are a run of `step` itself. -/
def stepRun (ss : Nat → State) : Prop := ∀ n, step (ss n) = .next (ss (n + 1))

/-- The step `a` is taken, and enabled, at the `n`-th state of a run. -/
def takes (ms : Nat → Move) (ss : Nat → State) (a : AgentStep) (n : Nat) : Prop :=
  ms n = .agent a ∧ enabled a (ss n) = true

/-- From the `n`-th state on no reset is taken. -/
def noReset (ms : Nat → Move) (n : Nat) : Prop := ∀ m, n ≤ m → ∀ a b, ms m ≠ .agent (.reset a b)

/-- From the `n`-th state on HOST and ENV take no step: only internal agents and TICK move (70_reset_and_hazards.md R285). -/
def hostAndEnvStop (ms : Nat → Move) (n : Nat) : Prop :=
  ∀ m, n ≤ m → ms m = .agent .tick ∨ ∃ a ∈ internalSteps, ms m = .agent a

end Sys2Proof.Machine
end

