-- ==== Sys2Proof/Safety.lean ====
section
/-! DEFINITION. What a sound state of the block is (the ranges and relations of 10_state.md), and quiescence
(70_reset_and_hazards.md R285). -/

namespace Sys2Proof

open Sys2Proof.Machine

/-- `v` is an `n`-bit two's-complement number (00_scope.md R9). -/
abbrev inWidth (n : Nat) (v : Int) : Prop := -(2 ^ (n - 1)) ≤ v ∧ v < 2 ^ (n - 1)

/-- Every position is a signed `RAW_W`-bit number (10_state.md R26, R27, R28, R35). -/
abbrev PositionsOk (s : State) : Prop :=
  inWidth s.cfg.rawW s.raw ∧ inWidth s.cfg.rawW s.ext ∧ inWidth s.cfg.rawW s.extPrev ∧
  inWidth s.cfg.rawW s.minPos ∧ inWidth s.cfg.rawW s.maxPos

/-- Every event word is an unsigned `EF_W`-bit number (10_state.md R37, R39, R40). -/
abbrev EventsOk (c : Config) (e : EventFlags) : Prop :=
  e.ef.toNat < 2 ^ c.efW ∧ e.snap.toNat < 2 ^ c.efW ∧ e.last.toNat < 2 ^ c.efW

/-- There are `N_EF_DOMAINS - 2` further domains, their words in the same range (00_scope.md R6, 40_event_flags.md R120). -/
abbrev OtherDomainsOk (s : State) : Prop :=
  s.evOther.length = s.cfg.nEfDomains - 2 ∧ ∀ e ∈ s.evOther, EventsOk s.cfg e

/-- Every time is an unsigned `TS_W`-bit number (10_state.md R29, R30). -/
abbrev TimesOk (s : State) : Prop :=
  s.time.toNat < 2 ^ s.cfg.tsW ∧ s.tLast.toNat < 2 ^ s.cfg.tsW ∧ s.tPrev.toNat < 2 ^ s.cfg.tsW

/-- `LEN <= LED_CAP`, and the staging array has `LED_CAP` entries (10_state.md R42, R43). -/
abbrev StripOk (s : State) : Prop := s.len ≤ s.cfg.ledCap ∧ s.stage.length = s.cfg.ledCap

/-- A worker past its consume-read took a non-zero word, whose bits stay pending until the consume-clear, and a worker past its
consume-clear returned a non-zero word (40_event_flags.md R127, R134, R135). -/
abbrev WorkersOk (s : State) : Prop :=
  (s.encwPh = .clear → s.evEnc.snap ≠ 0 ∧ s.evEnc.snap &&& s.evEnc.ef = s.evEnc.snap) ∧
  (s.encwPh = .update → s.evEnc.last ≠ 0) ∧
  (s.ledwPh = .clear → s.evLed.snap ≠ 0 ∧ s.evLed.snap &&& s.evLed.ef = s.evLed.snap) ∧
  (s.ledwPh = .start ∨ s.ledwPh = .tx → s.evLed.last ≠ 0)

/-- What the transmitter holds: outside TX nothing, with the clock low; in TX a whole frame of at most `LED_CAP` colours with an
event left to send (10_state.md R45, 42_led_encoder.md R215, R216, R218). -/
abbrev FrameOk (s : State) : Prop :=
  (s.ledwPh ≠ .tx → s.txFrame = [] ∧ s.txPos = 0 ∧ s.clkPin = false) ∧
  (s.ledwPh = .tx → s.txPos < s.txFrame.length ∧ (s.clkPin = true ↔ s.txPos % 3 = 2) ∧
    ∃ cs : List Colour, cs.length ≤ s.cfg.ledCap ∧ s.txFrame = serialize (frame cs))

/-- The trace is whole frames, one after another, and then the part of the frame being sent (42_led_encoder.md R217, R219). -/
abbrev TraceOk (s : State) : Prop :=
  ∃ fs : List (List Colour), (∀ cs ∈ fs, cs.length ≤ s.cfg.ledCap) ∧
    s.trace = fs.flatMap (fun cs => serialize (frame cs)) ++ s.txFrame.take s.txPos

/-- The level a trace leaves a pin at, both pins low to begin with (10_state.md R48, 42_led_encoder.md R217). -/
def lastLevel (p : Pin) (es : List PinEvent) : Bool := es.foldl (fun v e => if e.pin = p then e.level else v) false

/-- The pins are at the levels the trace last drove them to (42_led_encoder.md R217, R218). -/
abbrev PinsOk (s : State) : Prop := s.dataPin = lastLevel .data s.trace ∧ s.clkPin = lastLevel .clk s.trace

/-- A sound state of the block: every element in its range, and the relations that every step keeps. -/
def Inv (s : State) : Prop :=
  s.cfg.legal ∧ PositionsOk s ∧ EventsOk s.cfg s.evEnc ∧ EventsOk s.cfg s.evLed ∧ OtherDomainsOk s ∧ TimesOk s ∧ StripOk s ∧ WorkersOk s ∧
  FrameOk s ∧ TraceOk s ∧ PinsOk s

/-- The operation `i` is the host read at offset `off`: its word is `CMD = 0, OFF = off`, and it returns `v` and changes nothing
else, whatever `DATA` is (20_memory.md R62, R67; 30_encoding.md R90). -/
def ReadsAs (off : Off) (i : Word → Instr) (v : State → Word) : Prop :=
  ∀ (d : Word) (s : State), encode (i d) = some (txWord 0 off d) ∧ exec (i d) s = .next { s with rdata := some (v s) }

/-- The operation `i` is the host write at offset `off`: its word is `CMD = 1, OFF = off`, its effect is `f`, and it returns
nothing (20_memory.md R62, R74; 30_encoding.md R90). -/
def WritesAs (off : Off) (i : Word → Instr) (f : Word → State → State) : Prop :=
  ∀ (d : Word) (s : State), encode (i d) = some (txWord 1 off d) ∧ exec (i d) s = .next { f d s with rdata := none }

/-- The operation is a reset. -/
def isReset : Instr → Bool
  | .reset _ _ => true
  | _ => false

/-- The operation is one of the two that raise `SEQ` (10_state.md R31, 70_reset_and_hazards.md R291). -/
def raisesSeq : Instr → Bool
  | .encwUpdate => true
  | .wrEncPos _ => true
  | _ => false

/-- No internal agent has an enabled step (70_reset_and_hazards.md R285). -/
def quiescent (s : State) : Prop :=
  s.syncA = s.padA ∧ s.syncB = s.padB ∧ (s.encwPh = .idle ∧ s.evEnc.ef = 0) ∧ (s.ledwPh = .idle ∧ s.evLed.ef = 0)

end Sys2Proof
end

