-- ==== Sys2Proof/Certificates/Slice0/Obligations.lean ====
section
/-! DEFINITION. The statements for the provers, in the order of OBLIGATIONS.json. -/

open Sys2Proof Sys2Proof.Machine

/-! ### Host reads -/

/-- R164, R165, R166: what the configuration registers read as; nothing but the answer changes; the reserved mode is never read. -/
def Obligations.EncoderConfigReads : Prop :=
  ReadsAs 0x000 Instr.rdEncCtrl (fun s =>
    BitVec.ofNat 32 (s.en.toNat + 2 * (latchModeCode s.latchMode).toNat + 8 * s.clampEn.toNat)) ∧
  (∀ s : State, (readReg .encCtrl s).extractLsb' 1 2 ≠ 3) ∧
  ReadsAs 0x004 Instr.rdEncMin (fun s => BitVec.ofInt 32 s.minPos) ∧
  ReadsAs 0x008 Instr.rdEncMax (fun s => BitVec.ofInt 32 s.maxPos)

/-- R167, R168, R169: what the position registers read as; reading changes no element of the block. -/
def Obligations.EncoderPositionReads : Prop :=
  ReadsAs 0x00C Instr.rdEncRaw (fun s => BitVec.ofInt 32 s.raw) ∧
  ReadsAs 0x010 Instr.rdEncPos (fun s => BitVec.ofInt 32 s.ext) ∧
  ReadsAs 0x014 Instr.rdEncPosPrev (fun s => BitVec.ofInt 32 s.extPrev)

/-- R172 to R176: the status, the timestamps, the sequence number and the time; `DIR` compares the positions (R36). -/
def Obligations.EncoderStatusAndTimeReads : Prop :=
  ReadsAs 0x018 Instr.rdEncStatus (fun s =>
    BitVec.ofNat 32 (s.prevSample.toNat + 4 * (if s.ext > s.extPrev then 1 else if s.ext < s.extPrev then 2 else 0)
      + 16 * (s.syncA.toNat + 2 * s.syncB.toNat))) ∧
  ReadsAs 0x01C Instr.rdEncTLast (fun s => s.tLast) ∧
  ReadsAs 0x020 Instr.rdEncTPrev (fun s => s.tPrev) ∧
  ReadsAs 0x024 Instr.rdEncSeq (fun s => s.seq) ∧
  ReadsAs 0x028 Instr.rdTime (fun s => s.time)

/-- R125: a peek returns the event word and consumes nothing. R127: the registers of the last consume return `EF_LAST`. -/
def Obligations.EventWordReads : Prop :=
  ReadsAs 0x040 Instr.rdEfEnc (fun s => s.evEnc.ef) ∧
  ReadsAs 0x044 Instr.rdEfLed (fun s => s.evLed.ef) ∧
  ReadsAs 0x048 Instr.rdEfEncLast (fun s => s.evEnc.last) ∧
  ReadsAs 0x04C Instr.rdEfLedLast (fun s => s.evLed.last)

/-- R204, R207, R208, R209, R213; and the write-only registers, which read 0 (R92, R102). -/
def Obligations.LedRegisterReads : Prop :=
  ReadsAs 0x080 Instr.rdLedLen (fun s => BitVec.ofNat 32 s.buf.length) ∧
  ReadsAs 0x084 Instr.rdLedCap (fun s => BitVec.ofNat 32 s.cfg.ledCap) ∧
  ReadsAs 0x088 Instr.rdLedResult (fun s =>
    match s.result with
    | .ok => 0
    | .outOfRange => 1
    | .capacityExceeded => 2) ∧
  ReadsAs 0x08C Instr.rdLedStatus (fun s => if s.ledwPh = .tx then 1 else 0) ∧
  ReadsAs 0x090 Instr.rdLedIndex (fun s => s.index) ∧
  ReadsAs 0x094 Instr.rdLedSetOne (fun _ => 0) ∧
  ReadsAs 0x098 Instr.rdLedSetAll (fun _ => 0)

/-- R205, R206, R100: an array element below `LED_CAP` reads as its colour word, a dropped buffer entry as 0, and an index at or
above `LED_CAP` is unmapped and reads 0. -/
def Obligations.LedArrayReads : Prop :=
  ∀ (i : BitVec 8) (d : Word) (s : State),
    encode (.rdLedStage i d) = some (txWord 0 (0x400 + 4 * i.setWidth 12) d) ∧
    encode (.rdLedBuf i d) = some (txWord 0 (0x800 + 4 * i.setWidth 12) d) ∧
    (∀ c : Colour, i.toNat < s.cfg.ledCap → s.stage[i.toNat]? = some c →
      exec (.rdLedStage i d) s = .next { s with rdata := some (BitVec.ofNat 32
        (c.bright.toNat * 2 ^ 24 + c.red.toNat * 2 ^ 16 + c.green.toNat * 2 ^ 8 + c.blue.toNat)) }) ∧
    (∀ c : Colour, i.toNat < s.cfg.ledCap → s.buf[i.toNat]? = some c →
      exec (.rdLedBuf i d) s = .next { s with rdata := some (BitVec.ofNat 32
        (c.bright.toNat * 2 ^ 24 + c.red.toNat * 2 ^ 16 + c.green.toNat * 2 ^ 8 + c.blue.toNat)) }) ∧
    (s.buf.length ≤ i.toNat → exec (.rdLedBuf i d) s = .next { s with rdata := some 0 }) ∧
    (s.cfg.ledCap ≤ i.toNat →
      exec (.rdLedStage i d) s = .next { s with rdata := some 0 } ∧
      exec (.rdLedBuf i d) s = .next { s with rdata := some 0 })

/-! ### Host writes -/

/-- R161: the three fields of a control word; the reserved mode 3 keeps the old mode; nothing else changes. -/
def Obligations.EncCtrlWrite : Prop :=
  WritesAs 0x000 Instr.wrEncCtrl (fun v s =>
    { s with
      en := v.getLsbD 0
      latchMode :=
        if v.extractLsb' 1 2 = 0 then .fourL3
        else if v.extractLsb' 1 2 = 1 then .fourL0
        else if v.extractLsb' 1 2 = 2 then .twoL03
        else s.latchMode
      clampEn := v.getLsbD 3 })

/-- R162, R163: a bound becomes the signed `RAW_W`-bit number whose bits are the low bits of `DATA`; nothing else changes. -/
def Obligations.BoundWrites : Prop :=
  ∀ (v : Word) (s : State), s.cfg.legal →
    encode (.wrEncMin v) = some (txWord 1 0x004 v) ∧ encode (.wrEncMax v) = some (txWord 1 0x008 v) ∧
    (∃ m : Int, inWidth s.cfg.rawW m ∧ (m - (v.toNat : Int)) % 2 ^ s.cfg.rawW = 0 ∧
      exec (.wrEncMin v) s = .next { s with minPos := m, rdata := none }) ∧
    (∃ m : Int, inWidth s.cfg.rawW m ∧ (m - (v.toNat : Int)) % 2 ^ s.cfg.rawW = 0 ∧
      exec (.wrEncMax v) s = .next { s with maxPos := m, rdata := none })

/-- R160: a set position keeps the low bits of `RAW`, projects the new counter onto both positions, counts one change, and takes
no timestamp, no sample and no event. -/
def Obligations.SetPositionWrite : Prop :=
  WritesAs 0x010 Instr.wrEncPos (fun v s =>
    let k := if s.latchMode = .twoL03 then 1 else 2
    let raw' := truncN s.cfg.rawW (sextN s.cfg.rawW v * 2 ^ k + s.raw % 2 ^ k)
    { s with
      raw := raw'
      ext := raw' / 2 ^ k
      extPrev := raw' / 2 ^ k
      seq := s.seq + 1 })

/-- R126: a host set ORs the bits of `DATA` that the word has into it; nothing else changes. -/
def Obligations.EventWordWrites : Prop :=
  WritesAs 0x040 Instr.wrEfEnc (fun v s =>
    { s with evEnc := { s.evEnc with ef := s.evEnc.ef ||| (v &&& BitVec.ofNat 32 (2 ^ s.cfg.efW - 1)) } }) ∧
  WritesAs 0x044 Instr.wrEfLed (fun v s =>
    { s with evLed := { s.evLed with ef := s.evLed.ef ||| (v &&& BitVec.ofNat 32 (2 ^ s.cfg.efW - 1)) } })

/-- R200, R203: the index takes the whole word; a staging entry takes the colour of the word, bits [31:29] dropped, and an index at
or above `LED_CAP` is unmapped (R100); nothing else changes. -/
def Obligations.LedIndexAndStageWrites : Prop :=
  WritesAs 0x090 Instr.wrLedIndex (fun v s => { s with index := v }) ∧
  ∀ (i : BitVec 8) (v : Word) (s : State),
    encode (.wrLedStage i v) = some (txWord 1 (0x400 + 4 * i.setWidth 12) v) ∧
    (i.toNat < s.cfg.ledCap →
      exec (.wrLedStage i v) s = .next { s with
        stage := s.stage.set i.toNat ⟨v.extractLsb' 24 5, v.extractLsb' 16 8, v.extractLsb' 8 8, v.extractLsb' 0 8⟩
        rdata := none }) ∧
    (s.cfg.ledCap ≤ i.toNat → exec (.wrLedStage i v) s = .next { s with rdata := none })

/-- R201: set one replaces the indexed entry and raises `UPDATE` when the index is below the current length, and otherwise
reports OUT_OF_RANGE and changes nothing else. -/
def Obligations.SetOneWrite : Prop :=
  ∀ (v : Word) (s : State), s.cfg.legal →
    encode (.wrLedSetOne v) = some (txWord 1 0x094 v) ∧
    (s.index.toNat < s.buf.length →
      exec (.wrLedSetOne v) s = .next { s with
        buf := s.buf.set s.index.toNat
          ⟨v.extractLsb' 24 5, v.extractLsb' 16 8, v.extractLsb' 8 8, v.extractLsb' 0 8⟩
        result := .ok
        evLed := { s.evLed with ef := s.evLed.ef ||| 1 }
        rdata := none }) ∧
    (s.buf.length ≤ s.index.toNat →
      exec (.wrLedSetOne v) s = .next { s with result := .outOfRange, rdata := none })

/-- R202: set all replaces the strip by the first `k` staged colours and raises `UPDATE` when `k` does not exceed the current
length, and otherwise reports CAPACITY_EXCEEDED and changes nothing else. -/
def Obligations.SetAllWrite : Prop :=
  ∀ (k : Word) (s : State), s.cfg.legal →
    encode (.wrLedSetAll k) = some (txWord 1 0x098 k) ∧
    (k.toNat ≤ s.buf.length →
      exec (.wrLedSetAll k) s = .next { s with
        buf := s.stage.take k.toNat
        result := .ok
        evLed := { s.evLed with ef := s.evLed.ef ||| 1 }
        rdata := none }) ∧
    (s.buf.length < k.toNat →
      exec (.wrLedSetAll k) s = .next { s with result := .capacityExceeded, rdata := none })

/-- R92: a write to a read-only register is ignored. -/
def Obligations.ReadOnlyWritesIgnored : Prop :=
  WritesAs 0x00C Instr.wrEncRaw (fun _ s => s) ∧ WritesAs 0x014 Instr.wrEncPosPrev (fun _ s => s) ∧
  WritesAs 0x018 Instr.wrEncStatus (fun _ s => s) ∧ WritesAs 0x01C Instr.wrEncTLast (fun _ s => s) ∧
  WritesAs 0x020 Instr.wrEncTPrev (fun _ s => s) ∧ WritesAs 0x024 Instr.wrEncSeq (fun _ s => s) ∧
  WritesAs 0x028 Instr.wrTime (fun _ s => s) ∧ WritesAs 0x048 Instr.wrEfEncLast (fun _ s => s) ∧
  WritesAs 0x04C Instr.wrEfLedLast (fun _ s => s) ∧ WritesAs 0x080 Instr.wrLedLen (fun _ s => s) ∧
  WritesAs 0x084 Instr.wrLedCap (fun _ s => s) ∧ WritesAs 0x088 Instr.wrLedResult (fun _ s => s) ∧
  WritesAs 0x08C Instr.wrLedStatus (fun _ s => s) ∧
  ∀ (i : BitVec 8) (v : Word) (s : State),
    encode (.wrLedBuf i v) = some (txWord 1 (0x800 + 4 * i.setWidth 12) v) ∧
    exec (.wrLedBuf i v) s = .next { s with rdata := none }

/-! ### Unmapped offsets, refused transactions, the access primitives -/

/-- R62, R100: an aligned offset that is neither listed nor in an array window decodes to an unmapped row; a read of it returns 0
and a write of it is ignored. -/
def Obligations.UnmappedAccesses : Prop :=
  ∀ (off : Off) (d : Word) (s : State),
    (isUnmapped off = true →
      decode (txWord 0 off d) = .rdUnmapped off d ∧ decode (txWord 1 off d) = .wrUnmapped off d) ∧
    exec (.rdUnmapped off d) s = .next { s with rdata := some 0 } ∧
    exec (.wrUnmapped off d) s = .next { s with rdata := none }

/-- R63, R254: a transaction is refused exactly when its command is reserved or its offset misaligned; R257: a reserved command
comes first. The transaction is presented, and the later moves are kept, on the agenda, which is the model's own field (assumption
log 1). -/
def Obligations.RefusedTransactions : Prop :=
  ∀ (cmd : BitVec 4) (off : Off) (d : Word) (s : State) (ms : List Move),
    (2 ≤ cmd.toNat → step { s with agenda := .bus (txWord cmd off d) :: ms } = .refused .reservedCommand) ∧
    (cmd.toNat < 2 → off.toNat % 4 ≠ 0 →
      step { s with agenda := .bus (txWord cmd off d) :: ms } = .refused .misaligned) ∧
    (cmd.toNat < 2 → off.toNat % 4 = 0 →
      ∃ t, step { s with agenda := .bus (txWord cmd off d) :: ms } = .next t ∧ t.agenda = ms)

/-- R254: each REFUSED row stops, whatever its operands, with the reason of its row. -/
def Obligations.RefusedRowsStop : Prop :=
  ∀ (cmd : BitVec 4) (off : Off) (d : Word) (s : State),
    exec (.refusedCmd2to3 cmd off d) s = .refused .reservedCommand ∧
    exec (.refusedCmd4to7 cmd off d) s = .refused .reservedCommand ∧
    exec (.refusedCmd8to15 cmd off d) s = .refused .reservedCommand ∧
    exec (.refusedMisalignedOff0 cmd off d) s = .refused .misaligned ∧
    exec (.refusedMisalignedOff1 cmd off d) s = .refused .misaligned

/-- R62: over the whole window, the read rows together are MemRead and the write rows together MemWrite. -/
def Obligations.BusAccessesAreMemAccesses : Prop :=
  ∀ (off : Off) (d : Word) (s : State),
    exec (decode (txWord 0 off d)) s =
      (match memRead off s with
      | .ok v => .next { s with rdata := some v }
      | .error r => .refused r) ∧
    exec (decode (txWord 1 off d)) s =
      (match memWrite off d s with
      | .ok t => .next { t with rdata := none }
      | .error r => .refused r)

/-- R64: the byte a bridge sees at offset `off + k` of a register is its bits `[8k+7:8k]`. -/
def Obligations.WindowByteLanes : Prop :=
  ∀ (off : Off) (s : State) (v : Word) (k : Nat), memRead off s = .ok v → k < 4 →
    windowByte (off + BitVec.ofNat 12 k) s = v.extractLsb' (8 * k) 8

/-! ### Encoding and decoding -/

/-- R90, R92, R100: decoding the word of a well-formed operation gives the operation back, with every operand. -/
def Obligations.DecodeEncode : Prop :=
  ∀ (i : Instr) (w : TxWord), i.wf = true → encode i = some w → decode w = i

/-- R90, R102: every 48-bit word decodes to a well-formed operation whose word it is: no bit of a word is dropped. That a read and
an ignored write keep the `DATA` that R90 says is ignored is the model's choice (assumption log 9). -/
def Obligations.EncodeDecode : Prop :=
  ∀ w : TxWord, (decode w).wf = true ∧ (decode w).isAgentStep = false ∧ encode (decode w) = some w

/-- R101: the operations without a word are the agent steps. -/
def Obligations.AgentStepsHaveNoWord : Prop :=
  ∀ i : Instr, encode i = none ↔ i.isAgentStep = true

/-- One word of every kind of row. The first nine stand in 95_test_vectors.md; the last five, of rows that no vector has, are written
out from R90, R92 and R100. -/
def Obligations.VectorWordsDecode : Prop :=
  decode 0x100800000007 = .wrEncMax 7 ∧ decode 0x001800000000 = .rdEncStatus 0 ∧ decode 0x104000000080 = .wrEfEnc 0x80 ∧
  decode 0x140401AA550F = .wrLedStage 1 0x01AA550F ∧ decode 0x080800000000 = .rdLedBuf 2 0 ∧
  decode 0x002C00000000 = .rdUnmapped 0x02C 0 ∧ decode 0x1C0000000001 = .wrUnmapped 0xC00 1 ∧
  decode 0x200200000000 = .refusedCmd2to3 2 0x002 0 ∧ decode 0x000200000000 = .refusedMisalignedOff1 0 0x002 0 ∧
  decode 0x701000000005 = .refusedCmd4to7 7 0x010 5 ∧ decode 0x800000000000 = .refusedCmd8to15 8 0x000 0 ∧
  decode 0x1001ABCDEF01 = .refusedMisalignedOff0 1 0x001 0xABCDEF01 ∧ decode 0x07FC00000000 = .rdLedStage 255 0 ∧
  decode 0x180800000007 = .wrLedBuf 2 7

/-- A step takes one move and runs it: the operation whose word the host presented, or the agent's step (R5, R69). The model's
choices are that the move is the oldest of the agenda, and a free move when the agenda is empty (assumption log 1), and that
`withFetchWord` presents a word as the next move (assumption log 16). -/
def Obligations.StepRunsTheMove : Prop :=
  (∀ (i : Instr) (w : TxWord) (s : State) (ms : List Move), i.wf = true → encode i = some w →
    step { s with agenda := .bus w :: ms } = exec i { s with agenda := ms } ∧
    step (s.withFetchWord 48 w.toNat) = exec i s) ∧
  (∀ (a : AgentStep) (s : State) (ms : List Move),
    step { s with agenda := .agent a :: ms } = exec a.toInstr { s with agenda := ms }) ∧
  (∀ s : State, step { s with agenda := [] } =
    exec (moveInstr (Config.freeMove s.draws)) { s with agenda := [], draws := s.draws + 1 })

/-! ### Agent steps -/

/-- R150, R170: ENV sets both pads; TICK advances the time modulo `2^TS_W`; both are always enabled and change nothing else. -/
def Obligations.EnvAndTickSteps : Prop :=
  ∀ (a b : Bool) (s : State), s.cfg.legal →
    exec (.envPads a b) s = .next { s with padA := a, padB := b } ∧
    ∃ n : Word, n.toNat = (s.time.toNat + 1) % 2 ^ s.cfg.tsW ∧ exec .tick s = .next { s with time := n }

/-- R151: a synchroniser whose level differs from its pad takes the pad's level and, when `EN = 1`, sets its event bit. -/
def Obligations.SynchroniserSteps : Prop :=
  ∀ s : State, s.cfg.legal →
    (s.syncA ≠ s.padA → s.en = true →
      exec .syncA s = .next { s with syncA := s.padA, evEnc := { s.evEnc with ef := s.evEnc.ef ||| 1 } }) ∧
    (s.syncA ≠ s.padA → s.en = false → exec .syncA s = .next { s with syncA := s.padA }) ∧
    (s.syncB ≠ s.padB → s.en = true →
      exec .syncB s = .next { s with syncB := s.padB, evEnc := { s.evEnc with ef := s.evEnc.ef ||| 2 } }) ∧
    (s.syncB ≠ s.padB → s.en = false → exec .syncB s = .next { s with syncB := s.padB })

/-- R134, R135: the consume-read and the consume-clear of each worker. -/
def Obligations.ConsumeSteps : Prop :=
  ∀ s : State,
    (s.encwPh = .idle → s.evEnc.ef ≠ 0 →
      exec .encwConsumeRead s = .next { s with evEnc := { s.evEnc with snap := s.evEnc.ef }, encwPh := .clear }) ∧
    (s.encwPh = .clear →
      exec .encwConsumeClear s =
        .next { s with evEnc := { s.evEnc with ef := 0, last := s.evEnc.snap }, encwPh := .update }) ∧
    (s.ledwPh = .idle → s.evLed.ef ≠ 0 →
      exec .ledwConsumeRead s = .next { s with evLed := { s.evLed with snap := s.evLed.ef }, ledwPh := .clear }) ∧
    (s.ledwPh = .clear →
      exec .ledwConsumeClear s =
        .next { s with evLed := { s.evLed with ef := 0, last := s.evLed.snap }, ledwPh := .start })

/-- R152: `update()` on an unchanged sample changes only the phase; on a changed sample it moves the counter by the table's delta,
with the range wrap of R153 when enabled and the delta is not zero, and then to `RAW_W` bits, and shifts sample, timestamps and
positions. Which samples are latch states, in the two cases with gating, is assumption log 22 (R155 marks it as general
knowledge). -/
def Obligations.UpdateStep : Prop :=
  ∀ s : State, s.encwPh = .update →
    let c : BitVec 2 := BitVec.ofNat 2 (s.syncA.toNat + 2 * s.syncB.toNat)
    let d : Int := dirTab.getD (s.prevSample.toNat + 4 * c.toNat) 0
    let r : Int := s.raw + d
    let w : Int :=
      if s.clampEn = true ∧ d ≠ 0 then (if r > s.maxPos then s.minPos else if r < s.minPos then s.maxPos else r) else r
    let raw' : Int := truncN s.cfg.rawW w
    let k : Nat := if s.latchMode = .twoL03 then 1 else 2
    (c = s.prevSample → exec .encwUpdate s = .next { s with encwPh := .idle }) ∧
    (c ≠ s.prevSample → s.cfg.latchGated = false ∨ c ∈ latchStates s.latchMode →
      exec .encwUpdate s = .next { s with
        raw := raw', prevSample := c, tPrev := s.tLast, tLast := s.time, extPrev := s.ext, ext := raw' / 2 ^ k,
        seq := s.seq + 1, encwPh := .idle }) ∧
    (c ≠ s.prevSample → s.cfg.latchGated = true → c ∉ latchStates s.latchMode →
      exec .encwUpdate s = .next { s with
        raw := raw', prevSample := c, tPrev := s.tLast, tLast := s.time, extPrev := s.ext,
        seq := s.seq + 1, encwPh := .idle })

/-- R154: the direction table, entry by entry. -/
def Obligations.DirectionTable : Prop :=
  (dirDelta 0 0 = 0 ∧ dirDelta 0 1 = 1 ∧ dirDelta 0 2 = -1 ∧ dirDelta 0 3 = 0) ∧
  (dirDelta 1 0 = -1 ∧ dirDelta 1 1 = 0 ∧ dirDelta 1 2 = 0 ∧ dirDelta 1 3 = 1) ∧
  (dirDelta 2 0 = 1 ∧ dirDelta 2 1 = 0 ∧ dirDelta 2 2 = 0 ∧ dirDelta 2 3 = -1) ∧
  (dirDelta 3 0 = 0 ∧ dirDelta 3 1 = -1 ∧ dirDelta 3 2 = 1 ∧ dirDelta 3 3 = 0)

/-- R155: the latch states of the modes, which the spec marks as general knowledge (assumption log 22), and the shifts. -/
def Obligations.LatchStates : Prop :=
  (∀ c : BitVec 2,
    (c ∈ latchStates .fourL3 ↔ c = 3) ∧ (c ∈ latchStates .fourL0 ↔ c = 0) ∧ (c ∈ latchStates .twoL03 ↔ c = 0 ∨ c = 3)) ∧
  shiftOf .fourL3 = 2 ∧ shiftOf .fourL0 = 2 ∧ shiftOf .twoL03 = 1

/-- R215, R216: the start step snapshots the strip into a frame; a transmit step drives the pin of the next event, appends the
event to the trace and goes on, or ends the frame after its last event. -/
def Obligations.StartAndTransmitSteps : Prop :=
  ∀ s : State,
    (s.ledwPh = .start →
      exec .ledwStart s = .next { s with txFrame := serialize (frame s.buf), txPos := 0, ledwPh := .tx }) ∧
    (∀ e : PinEvent, s.ledwPh = .tx → s.txFrame[s.txPos]? = some e → s.txPos + 1 < s.txFrame.length →
      exec .ledwTx s = .next { s with
        dataPin := if e.pin = .data then e.level else s.dataPin
        clkPin := if e.pin = .clk then e.level else s.clkPin
        trace := s.trace ++ [e]
        txPos := s.txPos + 1 }) ∧
    (∀ e : PinEvent, s.ledwPh = .tx → s.txFrame[s.txPos]? = some e → s.txPos + 1 = s.txFrame.length →
      exec .ledwTx s = .next { s with
        dataPin := if e.pin = .data then e.level else s.dataPin
        clkPin := if e.pin = .clk then e.level else s.clkPin
        trace := s.trace ++ [e]
        txPos := 0
        txFrame := []
        ledwPh := .idle })

/-- R280: a reset leaves every element of the block at its reset value, with the pads, the synchronisers and the previous sample at
the drawn levels; the configuration stays, and so do the model's own fields (assumption log 6). -/
def Obligations.ResetStep : Prop :=
  ∀ (a b : Bool) (s : State), exec (.reset a b) s =
    .next { State.atReset s.cfg a b with rdata := s.rdata, agenda := s.agenda, draws := s.draws }

/-- R280, R92: what every register reads right after reset in the reference configuration, for every level of the pads. -/
def Obligations.RegistersAfterReset : Prop :=
  ∀ a b : Bool,
    let s := State.atReset Config.reference a b
    let s0 := a.toNat + 2 * b.toNat
    readReg .encCtrl s = 0 ∧ readReg .encMin s = 0xFFFF8000 ∧ readReg .encMax s = 0x00007FFF ∧
    (∀ r ∈ ([.encRaw, .encPos, .encPosPrev, .encTLast, .encTPrev, .encSeq, .time, .efEnc, .efLed, .efEncLast, .efLedLast,
      .ledResult, .ledStatus, .ledIndex, .ledSetOne, .ledSetAll] : List RegName), readReg r s = 0) ∧
    readReg .encStatus s = BitVec.ofNat 32 (s0 + 16 * s0) ∧ readReg .ledLen s = 16 ∧ readReg .ledCap s = 16 ∧
    ∀ i : BitVec 8, readReg (.ledStage i) s = 0 ∧ readReg (.ledBuf i) s = 0

/-- The model's choice (assumption log 2): an agent given a turn while its step is not enabled waits, and nothing changes. The
conditions are those of the rules of the steps. -/
def Obligations.DisabledTurnsWait : Prop :=
  ∀ s : State,
    (s.syncA = s.padA → exec .syncA s = .next s) ∧ (s.syncB = s.padB → exec .syncB s = .next s) ∧
    (s.encwPh ≠ .idle ∨ s.evEnc.ef = 0 → exec .encwConsumeRead s = .next s) ∧
    (s.encwPh ≠ .clear → exec .encwConsumeClear s = .next s) ∧ (s.encwPh ≠ .update → exec .encwUpdate s = .next s) ∧
    (s.ledwPh ≠ .idle ∨ s.evLed.ef = 0 → exec .ledwConsumeRead s = .next s) ∧
    (s.ledwPh ≠ .clear → exec .ledwConsumeClear s = .next s) ∧ (s.ledwPh ≠ .start → exec .ledwStart s = .next s) ∧
    (s.ledwPh ≠ .tx → exec .ledwTx s = .next s)

/-! ### Invariants and whole-machine rules -/

/-- Every step keeps a sound state sound: ranges of every element, `LEN <= LED_CAP`, the workers' snapshots, the transmitter, the
pins, and a trace made of whole frames. -/
def Obligations.StepKeepsInv : Prop :=
  ∀ s t : State, Inv s → step s = .next t → Inv t

/-- The block right after reset is sound, for every legal configuration and every level of the pads. -/
def Obligations.InvAtReset : Prop :=
  (∀ (c : Config) (a b : Bool), c.legal → Inv (State.atReset c a b)) ∧ Inv State.reset

/-- R50: `RAW` changes only by `update()` and by set position, apart from a reset; in an update it moves by the delta of the
direction table, wraps past a bound to the opposite one, and wraps at `RAW_W` bits. -/
def Obligations.RawWriters : Prop :=
  ∀ (i : Instr) (s t : State), exec i s = .next t → t.raw ≠ s.raw →
    isReset i = true ∨ (∃ v, i = .wrEncPos v) ∨
    (i = .encwUpdate ∧ ∃ r : Int, r = s.raw + dirDelta s.prevSample (sampleOf s.syncA s.syncB) ∧
      (t.raw = truncN s.cfg.rawW r ∨
        (s.clampEn = true ∧ s.maxPos < r ∧ t.raw = truncN s.cfg.rawW s.minPos) ∨
        (s.clampEn = true ∧ r < s.minPos ∧ t.raw = truncN s.cfg.rawW s.maxPos)))

/-- R42, R20: the current length never increases except at reset and stays at most `LED_CAP`; no operation changes the
configuration. -/
def Obligations.LengthNeverGrows : Prop :=
  ∀ (i : Instr) (s t : State), exec i s = .next t →
    t.cfg = s.cfg ∧ (isReset i = false → t.len ≤ s.len) ∧ (s.len ≤ s.cfg.ledCap → t.len ≤ t.cfg.ledCap)

/-- R139, R37: apart from a reset, a pending event bit is cleared only by the consume-clear of its domain's worker. -/
def Obligations.EventBitsClearedOnlyByConsume : Prop :=
  ∀ (i : Instr) (s t : State) (k : Nat), exec i s = .next t → isReset i = false →
    (s.evEnc.ef.getLsbD k = true → t.evEnc.ef.getLsbD k = false → i = .encwConsumeClear) ∧
    (s.evLed.ef.getLsbD k = true → t.evLed.ef.getLsbD k = false → i = .ledwConsumeClear)

/-- R291: over operations without a reset, fewer than 2^32 of them updates or set positions, two equal readings of `SEQ` mean that the encoder's published state did
not change in between, at any point; and so the words of `enc_snapshot` (R104), whatever turns the other agents take between its
reads, all belong to the state after it, the `PINS` field of the status excepted. A pass that nothing interrupts ends the loop. How the
loop is written is assumption log 23. -/
def Obligations.EqualSeqMeansOneState : Prop :=
  (∀ (before after : List Instr) (s u t : State),
    (before ++ after).countP raisesSeq < 2 ^ 32 → (∀ i ∈ before ++ after, isReset i = false) →
    execAll before s = .next u → execAll after u = .next t → t.seq = s.seq →
    u.seq = s.seq ∧ u.raw = s.raw ∧ u.ext = s.ext ∧ u.extPrev = s.extPrev ∧ u.prevSample = s.prevSample ∧
    u.tLast = s.tLast ∧ u.tPrev = s.tPrev) ∧
  (∀ (passes : List (List (List AgentStep))) (s t : State) (ws : List Word),
    (∀ gaps ∈ passes, gaps.flatten.count .encwUpdate < 2 ^ 32 ∧ ∀ a ∈ gaps.flatten, isReset a.toInstr = false) →
    encSnapshot passes s = some (ws, t) →
    ∃ status : Word,
      ws = [t.seq, BitVec.ofInt 32 t.ext, BitVec.ofInt 32 t.extPrev, status, t.tLast, t.tPrev, t.seq] ∧
      status.extractLsb' 0 4 = BitVec.ofNat 4 (t.prevSample.toNat + 4 * dirCode t.dir)) ∧
  (∀ (passes : List (List (List AgentStep))) (s : State), (encSnapshot ([] :: passes) s).isSome = true)

/-- R51: without gating, every operation that keeps the shift, and a reset, keep `EXT` the projection of `RAW`. -/
def Obligations.ProjectionIsKept : Prop :=
  ∀ (i : Instr) (s t : State), s.cfg.latchGated = false → s.ext = asr s.raw (shiftOf s.latchMode) → exec i s = .next t →
    isReset i = true ∨ shiftOf t.latchMode = shiftOf s.latchMode → t.ext = asr t.raw (shiftOf t.latchMode)

/-- R70: a host read of a read-write register after a host write of it returns what R161, R162, R163, R200 and R203 say the write
stored, whatever turns the other agents take in between, a reset excepted. That an element which the stored list does not hold reads
0 is assumption log 21; no sound state has one below `LED_CAP`. -/
def Obligations.ReadBackAfterWrite : Prop :=
  ∀ (v d : Word) (i : BitVec 8) (s : State) (as : List AgentStep), s.cfg.legal → (∀ a ∈ as, isReset a.toInstr = false) →
    let reads (w r : Instr) (x : Word) : Prop :=
      ∃ t, execAll (w :: as.map AgentStep.toInstr ++ [r]) s = .next t ∧ t.rdata = some x
    let mode : Nat := if v.extractLsb' 1 2 = 3 then (latchModeCode s.latchMode).toNat else (v.extractLsb' 1 2).toNat
    reads (.wrEncCtrl v) (.rdEncCtrl d)
      (BitVec.ofNat 32 ((v.getLsbD 0).toNat + 2 * mode + 8 * (v.getLsbD 3).toNat)) ∧
    reads (.wrEncMin v) (.rdEncMin d) ((v.setWidth s.cfg.rawW).signExtend 32) ∧
    reads (.wrEncMax v) (.rdEncMax d) ((v.setWidth s.cfg.rawW).signExtend 32) ∧
    reads (.wrLedIndex v) (.rdLedIndex d) v ∧
    (i.toNat < s.cfg.ledCap → i.toNat < s.stage.length →
      reads (.wrLedStage i v) (.rdLedStage i d) (v &&& 0x1FFFFFFF)) ∧
    (s.cfg.ledCap ≤ i.toNat ∨ s.stage.length ≤ i.toNat → reads (.wrLedStage i v) (.rdLedStage i d) 0)

/-- R73, R290: while a frame is being sent, no operation but a transmit step or a reset changes the frame, the position in it, the
pins, the trace or the phase. -/
def Obligations.FrameIsASnapshot : Prop :=
  ∀ (i : Instr) (s t : State), exec i s = .next t → s.ledwPh = .tx → i ≠ .ledwTx → isReset i = false →
    t.txFrame = s.txFrame ∧ t.txPos = s.txPos ∧ t.dataPin = s.dataPin ∧ t.clkPin = s.clkPin ∧ t.trace = s.trace ∧
    t.ledwPh = .tx

/-- R120: the domains share nothing: the steps of the encoder's agents leave every element of the LED strip alone, the steps of the
LED worker every element of the encoder, and no operation but a reset touches a further domain (assumption log 13). -/
def Obligations.DomainsShareNothing : Prop :=
  ∀ (i : Instr) (s t : State), exec i s = .next t →
    (i ∈ ([.syncA, .syncB, .encwConsumeRead, .encwConsumeClear, .encwUpdate] : List Instr) →
      t.evLed = s.evLed ∧ t.ledwPh = s.ledwPh ∧ t.buf = s.buf ∧ t.stage = s.stage ∧ t.index = s.index ∧
      t.result = s.result ∧ t.txFrame = s.txFrame ∧ t.txPos = s.txPos ∧ t.trace = s.trace ∧
      t.dataPin = s.dataPin ∧ t.clkPin = s.clkPin) ∧
    (i ∈ ([.ledwConsumeRead, .ledwConsumeClear, .ledwStart, .ledwTx] : List Instr) →
      t.evEnc = s.evEnc ∧ t.encwPh = s.encwPh ∧ t.raw = s.raw ∧ t.ext = s.ext ∧ t.extPrev = s.extPrev ∧
      t.prevSample = s.prevSample ∧ t.tLast = s.tLast ∧ t.tPrev = s.tPrev ∧ t.time = s.time ∧ t.seq = s.seq ∧
      t.en = s.en ∧ t.latchMode = s.latchMode ∧ t.clampEn = s.clampEn ∧ t.minPos = s.minPos ∧ t.maxPos = s.maxPos ∧
      t.padA = s.padA ∧ t.padB = s.padB ∧ t.syncA = s.syncA ∧ t.syncB = s.syncB) ∧
    (isReset i = false → t.evOther = s.evOther)

/-! ### Event flags -/

/-- R136: the word a consume returns is the OR of what was pending and of every mask the host set before it, and the event word is
zero right after the consume-clear. -/
def Obligations.ConsumeCoalesces : Prop :=
  ∀ (ms : List Word) (s : State),
    let mask : Word := BitVec.ofNat 32 (2 ^ s.cfg.efW - 1)
    let all : Word := ms.foldl (fun x m => x ||| m) 0
    (s.encwPh = .idle → s.evEnc.ef ||| (all &&& mask) ≠ 0 →
      ∃ t, execAll (ms.map Instr.wrEfEnc ++ [.encwConsumeRead, .encwConsumeClear]) s = .next t ∧
        t.evEnc.last = s.evEnc.ef ||| (all &&& mask) ∧ t.evEnc.ef = 0 ∧ t.encwPh = .update) ∧
    (s.ledwPh = .idle → s.evLed.ef ||| (all &&& mask) ≠ 0 →
      ∃ t, execAll (ms.map Instr.wrEfLed ++ [.ledwConsumeRead, .ledwConsumeClear]) s = .next t ∧
        t.evLed.last = s.evLed.ef ||| (all &&& mask) ∧ t.evLed.ef = 0 ∧ t.ledwPh = .start)

/-- R137: the three outcomes of a set that meets a consume: taken, lost, and left for the next consume. -/
def Obligations.SetConsumeRace : Prop :=
  ∀ (m : Word) (s : State),
    let m' : Word := m &&& BitVec.ofNat 32 (2 ^ s.cfg.efW - 1)
    (s.encwPh = .idle → s.evEnc.ef ≠ 0 →
      (∃ t, execAll [.wrEfEnc m, .encwConsumeRead, .encwConsumeClear] s = .next t ∧
        t.evEnc.last = s.evEnc.ef ||| m' ∧ t.evEnc.ef = 0) ∧
      (∃ t, execAll [.encwConsumeRead, .wrEfEnc m, .encwConsumeClear] s = .next t ∧
        t.evEnc.last = s.evEnc.ef ∧ t.evEnc.ef = 0) ∧
      (∃ t, execAll [.encwConsumeRead, .encwConsumeClear, .wrEfEnc m] s = .next t ∧
        t.evEnc.last = s.evEnc.ef ∧ t.evEnc.ef = m')) ∧
    (s.ledwPh = .idle → s.evLed.ef ≠ 0 →
      (∃ t, execAll [.wrEfLed m, .ledwConsumeRead, .ledwConsumeClear] s = .next t ∧
        t.evLed.last = s.evLed.ef ||| m' ∧ t.evLed.ef = 0) ∧
      (∃ t, execAll [.ledwConsumeRead, .wrEfLed m, .ledwConsumeClear] s = .next t ∧
        t.evLed.last = s.evLed.ef ∧ t.evLed.ef = 0) ∧
      (∃ t, execAll [.ledwConsumeRead, .ledwConsumeClear, .wrEfLed m] s = .next t ∧
        t.evLed.last = s.evLed.ef ∧ t.evLed.ef = m'))

/-- R138: a set lost between consume-read and consume-clear loses no information. The update that follows samples the pins as they
are at its own step, so an edge of either pad lost there is healed; the start step that follows takes the strip as it is at its own
step, so a set one or a set all whose `UPDATE` was lost there is in the frame. -/
def Obligations.LostEdgeHeals : Prop :=
  ∀ s : State,
    (s.encwPh = .clear → s.syncA ≠ s.padA → s.en = true →
      ∃ t, execAll [.syncA, .encwConsumeClear, .encwUpdate] s = .next t ∧
        t.evEnc.ef = 0 ∧ t.evEnc.last = s.evEnc.snap ∧ t.encwPh = .idle ∧
        t.prevSample = BitVec.ofNat 2 (s.padA.toNat + 2 * s.syncB.toNat)) ∧
    (s.encwPh = .clear → s.syncB ≠ s.padB → s.en = true →
      ∃ t, execAll [.syncB, .encwConsumeClear, .encwUpdate] s = .next t ∧
        t.evEnc.ef = 0 ∧ t.evEnc.last = s.evEnc.snap ∧ t.encwPh = .idle ∧
        t.prevSample = BitVec.ofNat 2 (s.syncA.toNat + 2 * s.padB.toNat)) ∧
    (∀ v : Word, s.ledwPh = .clear → s.index.toNat < s.buf.length →
      ∃ t, execAll [.wrLedSetOne v, .ledwConsumeClear, .ledwStart] s = .next t ∧
        t.evLed.ef = 0 ∧ t.evLed.last = s.evLed.snap ∧ t.ledwPh = .tx ∧ t.txPos = 0 ∧
        t.txFrame = serialize (frame (s.buf.set s.index.toNat
          ⟨v.extractLsb' 24 5, v.extractLsb' 16 8, v.extractLsb' 8 8, v.extractLsb' 0 8⟩))) ∧
    (∀ k : Word, s.ledwPh = .clear → k.toNat ≤ s.buf.length →
      ∃ t, execAll [.wrLedSetAll k, .ledwConsumeClear, .ledwStart] s = .next t ∧
        t.evLed.ef = 0 ∧ t.evLed.last = s.evLed.snap ∧ t.ledwPh = .tx ∧ t.txPos = 0 ∧
        t.txFrame = serialize (frame (s.stage.take k.toNat)))

/-! ### Decoder -/

/-- R8: `trunc_N` gives the `N`-bit two's-complement number congruent to its argument modulo `2^N`, and is the identity on such
numbers. -/
def Obligations.TruncIsTwosComplement : Prop :=
  ∀ (n : Nat) (v : Int), 1 ≤ n →
    inWidth n (truncN n v) ∧ (truncN n v - v) % 2 ^ n = 0 ∧ (inWidth n v → truncN n v = v)

/-- R153: with the range wrap on and `MIN <= MAX`, a moving update leaves `RAW` within the bounds; past the maximum it lands on the
minimum and below the minimum on the maximum. -/
def Obligations.RangeWrapBounds : Prop :=
  ∀ s t : State, Inv s → s.encwPh = .update → s.clampEn = true → s.minPos ≤ s.maxPos →
    dirDelta s.prevSample (sampleOf s.syncA s.syncB) ≠ 0 → exec .encwUpdate s = .next t →
    (s.minPos ≤ t.raw ∧ t.raw ≤ s.maxPos) ∧
    (s.maxPos < s.raw + dirDelta s.prevSample (sampleOf s.syncA s.syncB) → t.raw = s.minPos) ∧
    (s.raw + dirDelta s.prevSample (sampleOf s.syncA s.syncB) < s.minPos → t.raw = s.maxPos)

/-- R160: a set position whose target fits in `RAW_W` bits makes that the external position, keeps the sub-detent phase of `RAW`,
and leaves the direction NONE. -/
def Obligations.SetPositionKeepsPhase : Prop :=
  ∀ (v : Word) (s t : State), s.cfg.legal → exec (.wrEncPos v) s = .next t →
    inWidth s.cfg.rawW (sextN s.cfg.rawW v * 2 ^ shiftOf s.latchMode + s.raw % 2 ^ shiftOf s.latchMode) →
    t.ext = sextN s.cfg.rawW v ∧ t.raw % 2 ^ shiftOf s.latchMode = s.raw % 2 ^ shiftOf s.latchMode ∧ t.dir = .none

/-- R297: in a quiescent block with edge events on and an up-to-date sample, a change of one pad leads to exactly one
changed-sample update by the table's delta: under EVERY schedule of turns of the internal agents and TICK that ends in quiescence,
and in particular by `settle` (R103; its schedule is assumption log 20), which does end there. -/
def Obligations.OnePadChangeOneUpdate : Prop :=
  ∀ (a b : Bool) (s : State), Inv s → quiescent s → s.en = true → s.prevSample = sampleOf s.padA s.padB →
    ((a ≠ s.padA ∧ b = s.padB) ∨ (a = s.padA ∧ b ≠ s.padB)) →
    let oneUpdate (t : State) : Prop :=
      t.seq = s.seq + 1 ∧ t.prevSample = sampleOf a b ∧
      t.raw = movedRaw s (dirDelta (sampleOf s.padA s.padB) (sampleOf a b)) ∧ t.tPrev = s.tLast ∧ t.extPrev = s.ext
    (∀ as : List AgentStep, (∀ x ∈ as, x ∈ internalSteps ∨ x = .tick) →
      quiescent (afterTurns as { s with padA := a, padB := b }) →
      oneUpdate (afterTurns as { s with padA := a, padB := b }) ∧
      (AgentStep.tick ∉ as → (afterTurns as { s with padA := a, padB := b }).tLast = s.time)) ∧
    (∃ t, runProgram [pads a b, .settle] s = .next t ∧ quiescent t ∧ oneUpdate t ∧ t.tLast = s.time)

/-- R104: without the range wrap, a full clockwise cycle from rest raises the raw counter by 4 and a counter-clockwise one lowers
it by 4, modulo the counter's width, on the schedule of `settle` (assumption log 20). -/
def Obligations.RotationMovesByFour : Prop :=
  ∀ s : State, Inv s → quiescent s → s.en = true → s.clampEn = false → s.padA = false → s.padB = false → s.prevSample = 0 →
    (∃ t, runProgram rotateCwProgram s = .next t ∧ t.raw = truncN s.cfg.rawW (s.raw + 4) ∧ t.seq = s.seq + 4 ∧ quiescent t) ∧
    (∃ t, runProgram rotateCcwProgram s = .next t ∧ t.raw = truncN s.cfg.rawW (s.raw - 4) ∧ t.seq = s.seq + 4 ∧ quiescent t)

/-! ### LED strip -/

/-- R210, R211, R214: the bytes of a frame, by position, and the number of its bytes and pin events. -/
def Obligations.FrameLayout : Prop :=
  ∀ cs : List Colour,
    (frame cs).length = 4 + 4 * cs.length + (cs.length + 15) / 16 ∧
    (serialize (frame cs)).length = 24 * (4 + 4 * cs.length + (cs.length + 15) / 16) ∧
    (∀ k, k < 4 → (frame cs)[k]? = some 0x00) ∧
    (∀ (j : Nat) (c : Colour), cs[j]? = some c →
      (∃ h : Byte, (frame cs)[4 + 4 * j]? = some h ∧ h.toNat = 0xE0 + c.bright.toNat) ∧
      (frame cs)[4 + 4 * j + 1]? = some c.blue ∧ (frame cs)[4 + 4 * j + 2]? = some c.green ∧
      (frame cs)[4 + 4 * j + 3]? = some c.red) ∧
    (∀ k, k < (cs.length + 15) / 16 → (frame cs)[4 + 4 * cs.length + k]? = some 0xFF)

/-- R212, R217: every bit is sent as data, clock high, clock low, the bits of a byte least significant first, with no other
event; and, derived from the two rules, the receiver view of the serialisation of any bytes is those bytes. -/
def Obligations.ReceiverReadsBytesBack : Prop :=
  ∀ bytes : List Byte,
    (∀ (j k : Nat) (x : Byte), bytes[j]? = some x → k < 8 →
      (serialize bytes)[24 * j + 3 * k]? = some ⟨.data, x.getLsbD k⟩ ∧
      (serialize bytes)[24 * j + 3 * k + 1]? = some ⟨.clk, true⟩ ∧
      (serialize bytes)[24 * j + 3 * k + 2]? = some ⟨.clk, false⟩) ∧
    (serialize bytes).length = 24 * bytes.length ∧
    receiverView (serialize bytes) = bytes

/-- R216, R217, R218: from the start step, as many transmit steps as the frame has events append exactly the serialised frame of the
strip to the trace, and leave the worker idle, the clock low, the data pin at the last bit sent, and nothing else changed. R217,
R219: between frames, the receiver has seen whole frames of strips of at most `LED_CAP` colours, one after another. -/
def Obligations.WholeFrameIsSent : Prop :=
  (∀ s : State, s.ledwPh = .start →
    turns .ledwTx (frameEvents s.buf.length) (afterTurn .ledwStart s) =
      { s with
        trace := s.trace ++ serialize (frame s.buf)
        txFrame := []
        txPos := 0
        ledwPh := .idle
        clkPin := false
        dataPin := !s.buf.isEmpty }) ∧
  (∀ s : State, Inv s → s.ledwPh ≠ .tx →
    ∃ fs : List (List Colour), (∀ cs ∈ fs, cs.length ≤ s.cfg.ledCap) ∧ receiverView s.trace = fs.flatMap frame)

/-- R294: after a set all that shrank the strip to `k`, set one fails for every index not below `k`, and set all for every count
above `k`. -/
def Obligations.ShrinkIsIrreversible : Prop :=
  ∀ (k n v : Word) (s t : State), Inv s → k.toNat < s.len → exec (.wrLedSetAll k) s = .next t →
    t.len = k.toNat ∧
    (k.toNat ≤ n.toNat → ∃ u, execAll [.wrLedIndex n, .wrLedSetOne v] t = .next u ∧ u.result = .outOfRange ∧ u.buf = t.buf) ∧
    (k.toNat < n.toNat → ∃ u, execAll [.wrLedSetAll n] t = .next u ∧ u.result = .capacityExceeded ∧ u.buf = t.buf)

/-! ### Quiescence -/

/-- R285: in a sound state every enabled step of an internal agent lowers the bound on the steps left, so any run of internal steps
alone is no longer than the bound; and `settle` (R103; its schedule and its number of steps are assumption log 20) ends in a
quiescent state. -/
def Obligations.InternalRunsAreFinite : Prop :=
  (∀ (as : List AgentStep) (s : State), Inv s →
    (∀ (before after : List AgentStep) (a : AgentStep), as = before ++ a :: after →
      a ∈ internalSteps ∧ enabled a (afterTurns before s) = true) →
    as.length + workLeft (afterTurns as s) ≤ workLeft s) ∧
  (∀ s : State, Inv s → quiescent (settle s))

/-- R285: the block is quiescent exactly when no internal agent has an enabled step, and exactly when no work is left. -/
def Obligations.QuiescentMeansNoWork : Prop :=
  ∀ s : State, Inv s →
    ((quiescent s ↔ ∀ a ∈ internalSteps, enabled a s = false) ∧ (quiescent s ↔ workLeft s = 0))

/-! ### Fair runs -/

/-- R140, R301, R5: in a fair run without further resets, from a sound state, a consume-read that is enabled is eventually taken; an
event pending for ENCW is eventually consumed and followed by an update; an event pending for LEDW is eventually consumed, followed
by a start step, and its frame comes to its end. How a fair run is written is assumption log 14. -/
def Obligations.FairRunsServeEvents : Prop :=
  ∀ (ms : Nat → Move) (ss : Nat → State) (n : Nat), fairRun ms ss → noReset ms n → Inv (ss n) →
    (enabled .encwConsumeRead (ss n) = true → ∃ m, n ≤ m ∧ takes ms ss .encwConsumeRead m) ∧
    (enabled .ledwConsumeRead (ss n) = true → ∃ m, n ≤ m ∧ takes ms ss .ledwConsumeRead m) ∧
    ((ss n).evEnc.ef ≠ 0 →
      ∃ m k, n ≤ m ∧ m < k ∧ takes ms ss .encwConsumeClear m ∧ takes ms ss .encwUpdate k) ∧
    ((ss n).evLed.ef ≠ 0 →
      ∃ m k j, n ≤ m ∧ m < k ∧ k < j ∧ takes ms ss .ledwConsumeClear m ∧ takes ms ss .ledwStart k ∧ (ss j).ledwPh = .idle)

/-- R285, R301: once HOST and ENV stop, a fair run from a sound state reaches quiescence and stays there. How a
fair run is written is assumption log 14. -/
def Obligations.FairRunsReachQuiescence : Prop :=
  ∀ (ms : Nat → Move) (ss : Nat → State) (n : Nat), fairRun ms ss → hostAndEnvStop ms n → Inv (ss n) →
    ∃ m, n ≤ m ∧ ∀ k, m ≤ k → quiescent (ss k)
end

