-- ==== Sys2Proof/Laws/Decode.lean ====
section
/-! SUPPORT. The fields of a transaction word and the alignment of an offset: what proofs about decoding cite. -/

namespace Sys2Proof

/-- The bits of a transaction word, field by field (30_encoding.md R90). -/
theorem getLsbD_txWord (c : BitVec 4) (o : Off) (d : Word) (i : Nat) :
    (txWord c o d).getLsbD i = if i < 32 then d.getLsbD i else if i < 44 then o.getLsbD (i - 32) else c.getLsbD (i - 44) := by
  have h : (txWord c o d).getLsbD i = ((c ++ o) ++ d).getLsbD i := rfl
  rw [h, BitVec.getLsbD_append, BitVec.getLsbD_append]
  by_cases h1 : i < 32
  · simp [h1]
  · by_cases h2 : i < 44
    · simp [h1, h2, show i - 32 < 12 by omega]
    · simp [h1, h2, show ¬ i - 32 < 12 by omega, show i - 32 - 12 = i - 44 by omega]

@[simp] theorem cmdOf_txWord (c : BitVec 4) (o : Off) (d : Word) : cmdOf (txWord c o d) = c := by
  apply BitVec.eq_of_getLsbD_eq
  intro i hi
  rw [cmdOf, BitVec.getLsbD_extractLsb', getLsbD_txWord]
  simp [hi, show ¬ 44 + i < 32 by omega, show ¬ 44 + i < 44 by omega]

@[simp] theorem offOf_txWord (c : BitVec 4) (o : Off) (d : Word) : offOf (txWord c o d) = o := by
  apply BitVec.eq_of_getLsbD_eq
  intro i hi
  rw [offOf, BitVec.getLsbD_extractLsb', getLsbD_txWord]
  simp [hi, show 32 + i < 44 by omega]

@[simp] theorem dataOf_txWord (c : BitVec 4) (o : Off) (d : Word) : dataOf (txWord c o d) = d := by
  apply BitVec.eq_of_getLsbD_eq
  intro i hi
  rw [dataOf, BitVec.getLsbD_extractLsb', getLsbD_txWord]
  simp [hi]

/-- A transaction word is its three fields. -/
theorem txWord_fields (w : TxWord) : txWord (cmdOf w) (offOf w) (dataOf w) = w := by
  apply BitVec.eq_of_getLsbD_eq
  intro i hi
  rw [getLsbD_txWord, cmdOf, offOf, dataOf, BitVec.getLsbD_extractLsb', BitVec.getLsbD_extractLsb',
    BitVec.getLsbD_extractLsb']
  by_cases h1 : i < 32
  · simp [h1]
  · by_cases h2 : i < 44
    · simp [h1, h2, show i - 32 < 12 by omega, show 32 + (i - 32) = i by omega]
    · simp [h1, h2, show i - 44 < 4 by omega, show 44 + (i - 44) = i by omega]

@[simp] theorem decode_txWord (c : BitVec 4) (o : Off) (d : Word) : decode (txWord c o d) = decodeFields c o d := by
  simp [decode]

/-- An offset is aligned when its two low bits are clear (20_memory.md R65). -/
theorem aligned_iff_bits (off : Off) : aligned off = true ↔ off.getLsbD 0 = false ∧ off.getLsbD 1 = false := by
  unfold aligned
  rw [beq_iff_eq]
  constructor
  · intro h
    have h0 := congrArg (fun x => x.getLsbD 0) h
    have h1 := congrArg (fun x => x.getLsbD 1) h
    simpa [BitVec.getLsbD_extractLsb'] using And.intro h0 h1
  · rintro ⟨h0, h1⟩
    apply BitVec.eq_of_getLsbD_eq
    intro i hi
    obtain rfl | rfl : i = 0 ∨ i = 1 := by omega
    · rw [BitVec.getLsbD_extractLsb', Nat.add_zero, h0]; rfl
    · rw [BitVec.getLsbD_extractLsb', Nat.zero_add, h1]; rfl

/-- An offset is aligned when it is a multiple of 4 (20_memory.md R65). -/
theorem aligned_iff_mod (off : Off) : aligned off = true ↔ off.toNat % 4 = 0 := by
  unfold aligned
  rw [beq_iff_eq, ← BitVec.toNat_inj, BitVec.extractLsb'_toNat]
  simp

/-- An aligned read decodes by its offset alone. -/
theorem decodeFields_read (off : Off) (d : Word) (h : aligned off = true) : decodeFields 0 off d = decodeRead off d := by
  rw [aligned_iff_bits] at h
  unfold decodeFields
  rw [if_neg (by decide), if_neg (by decide), if_neg (by decide), h.1, h.2]
  rfl

/-- An aligned write decodes by its offset alone. -/
theorem decodeFields_write (off : Off) (d : Word) (h : aligned off = true) : decodeFields 1 off d = decodeWrite off d := by
  rw [aligned_iff_bits] at h
  unfold decodeFields
  rw [if_neg (by decide), if_neg (by decide), if_neg (by decide), h.1, h.2]
  rfl

/-- The offset of a staging element lies in the staging window, is aligned, and carries the index. -/
theorem stageOff_fields (i : BitVec 8) :
    (stageOff i).extractLsb' 10 2 = 1 ∧ aligned (stageOff i) = true ∧ indexOf (stageOff i) = i := by
  revert i; decide

/-- The offset of a buffer element lies in the buffer window, is aligned, and carries the index. -/
theorem bufOff_fields (i : BitVec 8) :
    (bufOff i).extractLsb' 10 2 = 2 ∧ aligned (bufOff i) = true ∧ indexOf (bufOff i) = i := by
  revert i; decide

/-- The offset of a staging element, as a sum (30_encoding.md R92). -/
theorem stageOff_eq (i : BitVec 8) : stageOff i = 0x400 + 4 * i.setWidth 12 := by
  revert i; decide

/-- The offset of a buffer element, as a sum (30_encoding.md R92). -/
theorem bufOff_eq (i : BitVec 8) : bufOff i = 0x800 + 4 * i.setWidth 12 := by
  revert i; decide

/-- The bits of an offset put together from window, index and two zero bits. -/
theorem getLsbD_windowOff (w : BitVec 2) (i : BitVec 8) (k : Nat) (hk : k < 12) :
    ((w ++ i) ++ 0#2).getLsbD k = if k < 2 then false else if k < 10 then i.getLsbD (k - 2) else w.getLsbD (k - 10) := by
  rw [BitVec.getLsbD_append, BitVec.getLsbD_append]
  by_cases h1 : k < 2
  · simp [h1]
  · by_cases h2 : k < 10
    · simp [h1, h2, show k - 2 < 8 by omega]
    · simp [h1, h2, show ¬ k - 2 < 8 by omega, show k - 2 - 8 = k - 10 by omega]

/-- An aligned offset is its window, its index and two zero bits (30_encoding.md R100). -/
theorem windowOff_indexOf (off : Off) (h : aligned off = true) : (off.extractLsb' 10 2 ++ indexOf off) ++ 0#2 = off := by
  rw [aligned_iff_bits] at h
  apply BitVec.eq_of_getLsbD_eq
  intro k hk
  have hk : k < 12 := hk
  rw [getLsbD_windowOff _ _ _ hk]
  by_cases h1 : k < 2
  · obtain rfl | rfl : k = 0 ∨ k = 1 := by omega
    · rw [if_pos h1, h.1]
    · rw [if_pos h1, h.2]
  · by_cases h2 : k < 10
    · rw [if_neg h1, if_pos h2, indexOf, BitVec.getLsbD_extractLsb', show 2 + (k - 2) = k by omega]
      simp [show k - 2 < 8 by omega]
    · rw [if_neg h1, if_neg h2, BitVec.getLsbD_extractLsb', show 10 + (k - 10) = k by omega]
      simp [show k - 10 < 2 by omega]

/-- An aligned offset of the staging window is the offset of its element (30_encoding.md R100). -/
theorem stageOff_indexOf (off : Off) (h : aligned off = true) (w : off.extractLsb' 10 2 = 1) : stageOff (indexOf off) = off := by
  have e := windowOff_indexOf off h
  rw [w] at e
  exact e

/-- An aligned offset of the buffer window is the offset of its element (30_encoding.md R100). -/
theorem bufOff_indexOf (off : Off) (h : aligned off = true) (w : off.extractLsb' 10 2 = 2) : bufOff (indexOf off) = off := by
  have e := windowOff_indexOf off h
  rw [w] at e
  exact e

/-- A named read offset that is none of the listed ones is unmapped. -/
theorem decodeNamedRead_unlisted (off : Off) (d : Word) (h : namedOffsets.contains off = false) :
    decodeNamedRead off d = .rdUnmapped off d := by
  unfold decodeNamedRead
  split <;> first | rfl | (exfalso; revert h; decide)

/-- A named write offset that is none of the listed ones is unmapped. -/
theorem decodeNamedWrite_unlisted (off : Off) (d : Word) (h : namedOffsets.contains off = false) :
    decodeNamedWrite off d = .wrUnmapped off d := by
  unfold decodeNamedWrite
  split <;> first | rfl | (exfalso; revert h; decide)

end Sys2Proof
end

