-- ==== Sys2Proof/Laws/State.lean ====
section
/-! SUPPORT. What each named state update leaves in each field: one lemma per field per update. -/

namespace Sys2Proof.Machine

/-! ### `State.setEv`: the event state of one domain -/

@[simp] theorem State.setEv_cfg (d : Domain) (e : EventFlags) (s : State) : (s.setEv d e).cfg = s.cfg := by cases d <;> rfl
@[simp] theorem State.setEv_padA (d : Domain) (e : EventFlags) (s : State) : (s.setEv d e).padA = s.padA := by cases d <;> rfl
@[simp] theorem State.setEv_padB (d : Domain) (e : EventFlags) (s : State) : (s.setEv d e).padB = s.padB := by cases d <;> rfl
@[simp] theorem State.setEv_syncA (d : Domain) (e : EventFlags) (s : State) : (s.setEv d e).syncA = s.syncA := by cases d <;> rfl
@[simp] theorem State.setEv_syncB (d : Domain) (e : EventFlags) (s : State) : (s.setEv d e).syncB = s.syncB := by cases d <;> rfl
@[simp] theorem State.setEv_prevSample (d : Domain) (e : EventFlags) (s : State) : (s.setEv d e).prevSample = s.prevSample := by cases d <;> rfl
@[simp] theorem State.setEv_raw (d : Domain) (e : EventFlags) (s : State) : (s.setEv d e).raw = s.raw := by cases d <;> rfl
@[simp] theorem State.setEv_ext (d : Domain) (e : EventFlags) (s : State) : (s.setEv d e).ext = s.ext := by cases d <;> rfl
@[simp] theorem State.setEv_extPrev (d : Domain) (e : EventFlags) (s : State) : (s.setEv d e).extPrev = s.extPrev := by cases d <;> rfl
@[simp] theorem State.setEv_tLast (d : Domain) (e : EventFlags) (s : State) : (s.setEv d e).tLast = s.tLast := by cases d <;> rfl
@[simp] theorem State.setEv_tPrev (d : Domain) (e : EventFlags) (s : State) : (s.setEv d e).tPrev = s.tPrev := by cases d <;> rfl
@[simp] theorem State.setEv_time (d : Domain) (e : EventFlags) (s : State) : (s.setEv d e).time = s.time := by cases d <;> rfl
@[simp] theorem State.setEv_seq (d : Domain) (e : EventFlags) (s : State) : (s.setEv d e).seq = s.seq := by cases d <;> rfl
@[simp] theorem State.setEv_en (d : Domain) (e : EventFlags) (s : State) : (s.setEv d e).en = s.en := by cases d <;> rfl
@[simp] theorem State.setEv_latchMode (d : Domain) (e : EventFlags) (s : State) : (s.setEv d e).latchMode = s.latchMode := by cases d <;> rfl
@[simp] theorem State.setEv_clampEn (d : Domain) (e : EventFlags) (s : State) : (s.setEv d e).clampEn = s.clampEn := by cases d <;> rfl
@[simp] theorem State.setEv_minPos (d : Domain) (e : EventFlags) (s : State) : (s.setEv d e).minPos = s.minPos := by cases d <;> rfl
@[simp] theorem State.setEv_maxPos (d : Domain) (e : EventFlags) (s : State) : (s.setEv d e).maxPos = s.maxPos := by cases d <;> rfl
@[simp] theorem State.setEv_encwPh (d : Domain) (e : EventFlags) (s : State) : (s.setEv d e).encwPh = s.encwPh := by cases d <;> rfl
@[simp] theorem State.setEv_ledwPh (d : Domain) (e : EventFlags) (s : State) : (s.setEv d e).ledwPh = s.ledwPh := by cases d <;> rfl
@[simp] theorem State.setEv_buf (d : Domain) (e : EventFlags) (s : State) : (s.setEv d e).buf = s.buf := by cases d <;> rfl
@[simp] theorem State.setEv_stage (d : Domain) (e : EventFlags) (s : State) : (s.setEv d e).stage = s.stage := by cases d <;> rfl
@[simp] theorem State.setEv_index (d : Domain) (e : EventFlags) (s : State) : (s.setEv d e).index = s.index := by cases d <;> rfl
@[simp] theorem State.setEv_result (d : Domain) (e : EventFlags) (s : State) : (s.setEv d e).result = s.result := by cases d <;> rfl
@[simp] theorem State.setEv_txFrame (d : Domain) (e : EventFlags) (s : State) : (s.setEv d e).txFrame = s.txFrame := by cases d <;> rfl
@[simp] theorem State.setEv_txPos (d : Domain) (e : EventFlags) (s : State) : (s.setEv d e).txPos = s.txPos := by cases d <;> rfl
@[simp] theorem State.setEv_dataPin (d : Domain) (e : EventFlags) (s : State) : (s.setEv d e).dataPin = s.dataPin := by cases d <;> rfl
@[simp] theorem State.setEv_clkPin (d : Domain) (e : EventFlags) (s : State) : (s.setEv d e).clkPin = s.clkPin := by cases d <;> rfl
@[simp] theorem State.setEv_trace (d : Domain) (e : EventFlags) (s : State) : (s.setEv d e).trace = s.trace := by cases d <;> rfl
@[simp] theorem State.setEv_rdata (d : Domain) (e : EventFlags) (s : State) : (s.setEv d e).rdata = s.rdata := by cases d <;> rfl
@[simp] theorem State.setEv_agenda (d : Domain) (e : EventFlags) (s : State) : (s.setEv d e).agenda = s.agenda := by cases d <;> rfl
@[simp] theorem State.setEv_draws (d : Domain) (e : EventFlags) (s : State) : (s.setEv d e).draws = s.draws := by cases d <;> rfl
@[simp] theorem State.setEv_enc_evOther (e : EventFlags) (s : State) : (s.setEv .enc e).evOther = s.evOther := rfl
@[simp] theorem State.setEv_led_evOther (e : EventFlags) (s : State) : (s.setEv .led e).evOther = s.evOther := rfl
@[simp] theorem State.setEv_other_evEnc (k : Nat) (e : EventFlags) (s : State) : (s.setEv (.other k) e).evEnc = s.evEnc := rfl
@[simp] theorem State.setEv_other_evLed (k : Nat) (e : EventFlags) (s : State) : (s.setEv (.other k) e).evLed = s.evLed := rfl
@[simp] theorem State.setEv_other_evOther (k : Nat) (e : EventFlags) (s : State) : (s.setEv (.other k) e).evOther = s.evOther.set k e := rfl
@[simp] theorem State.setEv_enc_evEnc (e : EventFlags) (s : State) : (s.setEv .enc e).evEnc = e := rfl
@[simp] theorem State.setEv_enc_evLed (e : EventFlags) (s : State) : (s.setEv .enc e).evLed = s.evLed := rfl
@[simp] theorem State.setEv_led_evLed (e : EventFlags) (s : State) : (s.setEv .led e).evLed = e := rfl
@[simp] theorem State.setEv_led_evEnc (e : EventFlags) (s : State) : (s.setEv .led e).evEnc = s.evEnc := rfl

/-! ### `setEvents`: the set primitive -/

@[simp] theorem setEvents_cfg (d : Domain) (m : Word) (s : State) : (setEvents d m s).cfg = s.cfg := by cases d <;> rfl
@[simp] theorem setEvents_padA (d : Domain) (m : Word) (s : State) : (setEvents d m s).padA = s.padA := by cases d <;> rfl
@[simp] theorem setEvents_padB (d : Domain) (m : Word) (s : State) : (setEvents d m s).padB = s.padB := by cases d <;> rfl
@[simp] theorem setEvents_syncA (d : Domain) (m : Word) (s : State) : (setEvents d m s).syncA = s.syncA := by cases d <;> rfl
@[simp] theorem setEvents_syncB (d : Domain) (m : Word) (s : State) : (setEvents d m s).syncB = s.syncB := by cases d <;> rfl
@[simp] theorem setEvents_prevSample (d : Domain) (m : Word) (s : State) : (setEvents d m s).prevSample = s.prevSample := by cases d <;> rfl
@[simp] theorem setEvents_raw (d : Domain) (m : Word) (s : State) : (setEvents d m s).raw = s.raw := by cases d <;> rfl
@[simp] theorem setEvents_ext (d : Domain) (m : Word) (s : State) : (setEvents d m s).ext = s.ext := by cases d <;> rfl
@[simp] theorem setEvents_extPrev (d : Domain) (m : Word) (s : State) : (setEvents d m s).extPrev = s.extPrev := by cases d <;> rfl
@[simp] theorem setEvents_tLast (d : Domain) (m : Word) (s : State) : (setEvents d m s).tLast = s.tLast := by cases d <;> rfl
@[simp] theorem setEvents_tPrev (d : Domain) (m : Word) (s : State) : (setEvents d m s).tPrev = s.tPrev := by cases d <;> rfl
@[simp] theorem setEvents_time (d : Domain) (m : Word) (s : State) : (setEvents d m s).time = s.time := by cases d <;> rfl
@[simp] theorem setEvents_seq (d : Domain) (m : Word) (s : State) : (setEvents d m s).seq = s.seq := by cases d <;> rfl
@[simp] theorem setEvents_en (d : Domain) (m : Word) (s : State) : (setEvents d m s).en = s.en := by cases d <;> rfl
@[simp] theorem setEvents_latchMode (d : Domain) (m : Word) (s : State) : (setEvents d m s).latchMode = s.latchMode := by cases d <;> rfl
@[simp] theorem setEvents_clampEn (d : Domain) (m : Word) (s : State) : (setEvents d m s).clampEn = s.clampEn := by cases d <;> rfl
@[simp] theorem setEvents_minPos (d : Domain) (m : Word) (s : State) : (setEvents d m s).minPos = s.minPos := by cases d <;> rfl
@[simp] theorem setEvents_maxPos (d : Domain) (m : Word) (s : State) : (setEvents d m s).maxPos = s.maxPos := by cases d <;> rfl
@[simp] theorem setEvents_encwPh (d : Domain) (m : Word) (s : State) : (setEvents d m s).encwPh = s.encwPh := by cases d <;> rfl
@[simp] theorem setEvents_ledwPh (d : Domain) (m : Word) (s : State) : (setEvents d m s).ledwPh = s.ledwPh := by cases d <;> rfl
@[simp] theorem setEvents_buf (d : Domain) (m : Word) (s : State) : (setEvents d m s).buf = s.buf := by cases d <;> rfl
@[simp] theorem setEvents_stage (d : Domain) (m : Word) (s : State) : (setEvents d m s).stage = s.stage := by cases d <;> rfl
@[simp] theorem setEvents_index (d : Domain) (m : Word) (s : State) : (setEvents d m s).index = s.index := by cases d <;> rfl
@[simp] theorem setEvents_result (d : Domain) (m : Word) (s : State) : (setEvents d m s).result = s.result := by cases d <;> rfl
@[simp] theorem setEvents_txFrame (d : Domain) (m : Word) (s : State) : (setEvents d m s).txFrame = s.txFrame := by cases d <;> rfl
@[simp] theorem setEvents_txPos (d : Domain) (m : Word) (s : State) : (setEvents d m s).txPos = s.txPos := by cases d <;> rfl
@[simp] theorem setEvents_dataPin (d : Domain) (m : Word) (s : State) : (setEvents d m s).dataPin = s.dataPin := by cases d <;> rfl
@[simp] theorem setEvents_clkPin (d : Domain) (m : Word) (s : State) : (setEvents d m s).clkPin = s.clkPin := by cases d <;> rfl
@[simp] theorem setEvents_trace (d : Domain) (m : Word) (s : State) : (setEvents d m s).trace = s.trace := by cases d <;> rfl
@[simp] theorem setEvents_rdata (d : Domain) (m : Word) (s : State) : (setEvents d m s).rdata = s.rdata := by cases d <;> rfl
@[simp] theorem setEvents_agenda (d : Domain) (m : Word) (s : State) : (setEvents d m s).agenda = s.agenda := by cases d <;> rfl
@[simp] theorem setEvents_draws (d : Domain) (m : Word) (s : State) : (setEvents d m s).draws = s.draws := by cases d <;> rfl
@[simp] theorem setEvents_enc_evEnc (m : Word) (s : State) : (setEvents .enc m s).evEnc = { s.evEnc with ef := s.evEnc.ef ||| (m &&& efMask s.cfg) } := rfl
@[simp] theorem setEvents_enc_evLed (m : Word) (s : State) : (setEvents .enc m s).evLed = s.evLed := rfl
@[simp] theorem setEvents_led_evLed (m : Word) (s : State) : (setEvents .led m s).evLed = { s.evLed with ef := s.evLed.ef ||| (m &&& efMask s.cfg) } := rfl
@[simp] theorem setEvents_enc_evOther (m : Word) (s : State) : (setEvents .enc m s).evOther = s.evOther := rfl
@[simp] theorem setEvents_led_evOther (m : Word) (s : State) : (setEvents .led m s).evOther = s.evOther := rfl
@[simp] theorem setEvents_led_evEnc (m : Word) (s : State) : (setEvents .led m s).evEnc = s.evEnc := rfl
@[simp] theorem setEvents_other_evEnc (k : Nat) (m : Word) (s : State) : (setEvents (.other k) m s).evEnc = s.evEnc := rfl
@[simp] theorem setEvents_other_evLed (k : Nat) (m : Word) (s : State) : (setEvents (.other k) m s).evLed = s.evLed := rfl
@[simp] theorem setEvents_other_evOther (k : Nat) (m : Word) (s : State) :
    (setEvents (.other k) m s).evOther = s.evOther.set k { (s.evOther.getD k ⟨0, 0, 0⟩) with ef := (s.evOther.getD k ⟨0, 0, 0⟩).ef ||| (m &&& efMask s.cfg) } := rfl

/-! ### `snapEvents`: the data of a consume-read -/

@[simp] theorem snapEvents_cfg (d : Domain) (s : State) : (snapEvents d s).cfg = s.cfg := by cases d <;> rfl
@[simp] theorem snapEvents_padA (d : Domain) (s : State) : (snapEvents d s).padA = s.padA := by cases d <;> rfl
@[simp] theorem snapEvents_padB (d : Domain) (s : State) : (snapEvents d s).padB = s.padB := by cases d <;> rfl
@[simp] theorem snapEvents_syncA (d : Domain) (s : State) : (snapEvents d s).syncA = s.syncA := by cases d <;> rfl
@[simp] theorem snapEvents_syncB (d : Domain) (s : State) : (snapEvents d s).syncB = s.syncB := by cases d <;> rfl
@[simp] theorem snapEvents_prevSample (d : Domain) (s : State) : (snapEvents d s).prevSample = s.prevSample := by cases d <;> rfl
@[simp] theorem snapEvents_raw (d : Domain) (s : State) : (snapEvents d s).raw = s.raw := by cases d <;> rfl
@[simp] theorem snapEvents_ext (d : Domain) (s : State) : (snapEvents d s).ext = s.ext := by cases d <;> rfl
@[simp] theorem snapEvents_extPrev (d : Domain) (s : State) : (snapEvents d s).extPrev = s.extPrev := by cases d <;> rfl
@[simp] theorem snapEvents_tLast (d : Domain) (s : State) : (snapEvents d s).tLast = s.tLast := by cases d <;> rfl
@[simp] theorem snapEvents_tPrev (d : Domain) (s : State) : (snapEvents d s).tPrev = s.tPrev := by cases d <;> rfl
@[simp] theorem snapEvents_time (d : Domain) (s : State) : (snapEvents d s).time = s.time := by cases d <;> rfl
@[simp] theorem snapEvents_seq (d : Domain) (s : State) : (snapEvents d s).seq = s.seq := by cases d <;> rfl
@[simp] theorem snapEvents_en (d : Domain) (s : State) : (snapEvents d s).en = s.en := by cases d <;> rfl
@[simp] theorem snapEvents_latchMode (d : Domain) (s : State) : (snapEvents d s).latchMode = s.latchMode := by cases d <;> rfl
@[simp] theorem snapEvents_clampEn (d : Domain) (s : State) : (snapEvents d s).clampEn = s.clampEn := by cases d <;> rfl
@[simp] theorem snapEvents_minPos (d : Domain) (s : State) : (snapEvents d s).minPos = s.minPos := by cases d <;> rfl
@[simp] theorem snapEvents_maxPos (d : Domain) (s : State) : (snapEvents d s).maxPos = s.maxPos := by cases d <;> rfl
@[simp] theorem snapEvents_encwPh (d : Domain) (s : State) : (snapEvents d s).encwPh = s.encwPh := by cases d <;> rfl
@[simp] theorem snapEvents_ledwPh (d : Domain) (s : State) : (snapEvents d s).ledwPh = s.ledwPh := by cases d <;> rfl
@[simp] theorem snapEvents_buf (d : Domain) (s : State) : (snapEvents d s).buf = s.buf := by cases d <;> rfl
@[simp] theorem snapEvents_stage (d : Domain) (s : State) : (snapEvents d s).stage = s.stage := by cases d <;> rfl
@[simp] theorem snapEvents_index (d : Domain) (s : State) : (snapEvents d s).index = s.index := by cases d <;> rfl
@[simp] theorem snapEvents_result (d : Domain) (s : State) : (snapEvents d s).result = s.result := by cases d <;> rfl
@[simp] theorem snapEvents_txFrame (d : Domain) (s : State) : (snapEvents d s).txFrame = s.txFrame := by cases d <;> rfl
@[simp] theorem snapEvents_txPos (d : Domain) (s : State) : (snapEvents d s).txPos = s.txPos := by cases d <;> rfl
@[simp] theorem snapEvents_dataPin (d : Domain) (s : State) : (snapEvents d s).dataPin = s.dataPin := by cases d <;> rfl
@[simp] theorem snapEvents_clkPin (d : Domain) (s : State) : (snapEvents d s).clkPin = s.clkPin := by cases d <;> rfl
@[simp] theorem snapEvents_trace (d : Domain) (s : State) : (snapEvents d s).trace = s.trace := by cases d <;> rfl
@[simp] theorem snapEvents_rdata (d : Domain) (s : State) : (snapEvents d s).rdata = s.rdata := by cases d <;> rfl
@[simp] theorem snapEvents_agenda (d : Domain) (s : State) : (snapEvents d s).agenda = s.agenda := by cases d <;> rfl
@[simp] theorem snapEvents_draws (d : Domain) (s : State) : (snapEvents d s).draws = s.draws := by cases d <;> rfl
@[simp] theorem snapEvents_enc_evEnc (s : State) : (snapEvents .enc s).evEnc = { s.evEnc with snap := s.evEnc.ef } := rfl
@[simp] theorem snapEvents_enc_evLed (s : State) : (snapEvents .enc s).evLed = s.evLed := rfl
@[simp] theorem snapEvents_led_evLed (s : State) : (snapEvents .led s).evLed = { s.evLed with snap := s.evLed.ef } := rfl
@[simp] theorem snapEvents_enc_evOther (s : State) : (snapEvents .enc s).evOther = s.evOther := rfl
@[simp] theorem snapEvents_led_evOther (s : State) : (snapEvents .led s).evOther = s.evOther := rfl
@[simp] theorem snapEvents_led_evEnc (s : State) : (snapEvents .led s).evEnc = s.evEnc := rfl
@[simp] theorem snapEvents_other_evEnc (k : Nat) (s : State) : (snapEvents (.other k) s).evEnc = s.evEnc := rfl
@[simp] theorem snapEvents_other_evLed (k : Nat) (s : State) : (snapEvents (.other k) s).evLed = s.evLed := rfl
@[simp] theorem snapEvents_other_evOther (k : Nat) (s : State) :
    (snapEvents (.other k) s).evOther = s.evOther.set k { (s.evOther.getD k ⟨0, 0, 0⟩) with snap := (s.evOther.getD k ⟨0, 0, 0⟩).ef } := rfl

/-! ### `clearEvents`: the data of a consume-clear -/

@[simp] theorem clearEvents_cfg (d : Domain) (s : State) : (clearEvents d s).cfg = s.cfg := by cases d <;> rfl
@[simp] theorem clearEvents_padA (d : Domain) (s : State) : (clearEvents d s).padA = s.padA := by cases d <;> rfl
@[simp] theorem clearEvents_padB (d : Domain) (s : State) : (clearEvents d s).padB = s.padB := by cases d <;> rfl
@[simp] theorem clearEvents_syncA (d : Domain) (s : State) : (clearEvents d s).syncA = s.syncA := by cases d <;> rfl
@[simp] theorem clearEvents_syncB (d : Domain) (s : State) : (clearEvents d s).syncB = s.syncB := by cases d <;> rfl
@[simp] theorem clearEvents_prevSample (d : Domain) (s : State) : (clearEvents d s).prevSample = s.prevSample := by cases d <;> rfl
@[simp] theorem clearEvents_raw (d : Domain) (s : State) : (clearEvents d s).raw = s.raw := by cases d <;> rfl
@[simp] theorem clearEvents_ext (d : Domain) (s : State) : (clearEvents d s).ext = s.ext := by cases d <;> rfl
@[simp] theorem clearEvents_extPrev (d : Domain) (s : State) : (clearEvents d s).extPrev = s.extPrev := by cases d <;> rfl
@[simp] theorem clearEvents_tLast (d : Domain) (s : State) : (clearEvents d s).tLast = s.tLast := by cases d <;> rfl
@[simp] theorem clearEvents_tPrev (d : Domain) (s : State) : (clearEvents d s).tPrev = s.tPrev := by cases d <;> rfl
@[simp] theorem clearEvents_time (d : Domain) (s : State) : (clearEvents d s).time = s.time := by cases d <;> rfl
@[simp] theorem clearEvents_seq (d : Domain) (s : State) : (clearEvents d s).seq = s.seq := by cases d <;> rfl
@[simp] theorem clearEvents_en (d : Domain) (s : State) : (clearEvents d s).en = s.en := by cases d <;> rfl
@[simp] theorem clearEvents_latchMode (d : Domain) (s : State) : (clearEvents d s).latchMode = s.latchMode := by cases d <;> rfl
@[simp] theorem clearEvents_clampEn (d : Domain) (s : State) : (clearEvents d s).clampEn = s.clampEn := by cases d <;> rfl
@[simp] theorem clearEvents_minPos (d : Domain) (s : State) : (clearEvents d s).minPos = s.minPos := by cases d <;> rfl
@[simp] theorem clearEvents_maxPos (d : Domain) (s : State) : (clearEvents d s).maxPos = s.maxPos := by cases d <;> rfl
@[simp] theorem clearEvents_encwPh (d : Domain) (s : State) : (clearEvents d s).encwPh = s.encwPh := by cases d <;> rfl
@[simp] theorem clearEvents_ledwPh (d : Domain) (s : State) : (clearEvents d s).ledwPh = s.ledwPh := by cases d <;> rfl
@[simp] theorem clearEvents_buf (d : Domain) (s : State) : (clearEvents d s).buf = s.buf := by cases d <;> rfl
@[simp] theorem clearEvents_stage (d : Domain) (s : State) : (clearEvents d s).stage = s.stage := by cases d <;> rfl
@[simp] theorem clearEvents_index (d : Domain) (s : State) : (clearEvents d s).index = s.index := by cases d <;> rfl
@[simp] theorem clearEvents_result (d : Domain) (s : State) : (clearEvents d s).result = s.result := by cases d <;> rfl
@[simp] theorem clearEvents_txFrame (d : Domain) (s : State) : (clearEvents d s).txFrame = s.txFrame := by cases d <;> rfl
@[simp] theorem clearEvents_txPos (d : Domain) (s : State) : (clearEvents d s).txPos = s.txPos := by cases d <;> rfl
@[simp] theorem clearEvents_dataPin (d : Domain) (s : State) : (clearEvents d s).dataPin = s.dataPin := by cases d <;> rfl
@[simp] theorem clearEvents_clkPin (d : Domain) (s : State) : (clearEvents d s).clkPin = s.clkPin := by cases d <;> rfl
@[simp] theorem clearEvents_trace (d : Domain) (s : State) : (clearEvents d s).trace = s.trace := by cases d <;> rfl
@[simp] theorem clearEvents_rdata (d : Domain) (s : State) : (clearEvents d s).rdata = s.rdata := by cases d <;> rfl
@[simp] theorem clearEvents_agenda (d : Domain) (s : State) : (clearEvents d s).agenda = s.agenda := by cases d <;> rfl
@[simp] theorem clearEvents_draws (d : Domain) (s : State) : (clearEvents d s).draws = s.draws := by cases d <;> rfl
@[simp] theorem clearEvents_enc_evEnc (s : State) : (clearEvents .enc s).evEnc = { s.evEnc with ef := 0, last := s.evEnc.snap } := rfl
@[simp] theorem clearEvents_enc_evLed (s : State) : (clearEvents .enc s).evLed = s.evLed := rfl
@[simp] theorem clearEvents_led_evLed (s : State) : (clearEvents .led s).evLed = { s.evLed with ef := 0, last := s.evLed.snap } := rfl
@[simp] theorem clearEvents_enc_evOther (s : State) : (clearEvents .enc s).evOther = s.evOther := rfl
@[simp] theorem clearEvents_led_evOther (s : State) : (clearEvents .led s).evOther = s.evOther := rfl
@[simp] theorem clearEvents_led_evEnc (s : State) : (clearEvents .led s).evEnc = s.evEnc := rfl
@[simp] theorem clearEvents_other_evEnc (k : Nat) (s : State) : (clearEvents (.other k) s).evEnc = s.evEnc := rfl
@[simp] theorem clearEvents_other_evLed (k : Nat) (s : State) : (clearEvents (.other k) s).evLed = s.evLed := rfl
@[simp] theorem clearEvents_other_evOther (k : Nat) (s : State) :
    (clearEvents (.other k) s).evOther = s.evOther.set k { (s.evOther.getD k ⟨0, 0, 0⟩) with ef := 0, last := (s.evOther.getD k ⟨0, 0, 0⟩).snap } := rfl

/-! ### `takeSample`: an update on a changed sample -/

@[simp] theorem takeSample_cfg (c : BitVec 2) (s : State) : (takeSample c s).cfg = s.cfg := rfl
@[simp] theorem takeSample_padA (c : BitVec 2) (s : State) : (takeSample c s).padA = s.padA := rfl
@[simp] theorem takeSample_padB (c : BitVec 2) (s : State) : (takeSample c s).padB = s.padB := rfl
@[simp] theorem takeSample_syncA (c : BitVec 2) (s : State) : (takeSample c s).syncA = s.syncA := rfl
@[simp] theorem takeSample_syncB (c : BitVec 2) (s : State) : (takeSample c s).syncB = s.syncB := rfl
@[simp] theorem takeSample_time (c : BitVec 2) (s : State) : (takeSample c s).time = s.time := rfl
@[simp] theorem takeSample_en (c : BitVec 2) (s : State) : (takeSample c s).en = s.en := rfl
@[simp] theorem takeSample_latchMode (c : BitVec 2) (s : State) : (takeSample c s).latchMode = s.latchMode := rfl
@[simp] theorem takeSample_clampEn (c : BitVec 2) (s : State) : (takeSample c s).clampEn = s.clampEn := rfl
@[simp] theorem takeSample_minPos (c : BitVec 2) (s : State) : (takeSample c s).minPos = s.minPos := rfl
@[simp] theorem takeSample_maxPos (c : BitVec 2) (s : State) : (takeSample c s).maxPos = s.maxPos := rfl
@[simp] theorem takeSample_evEnc (c : BitVec 2) (s : State) : (takeSample c s).evEnc = s.evEnc := rfl
@[simp] theorem takeSample_evLed (c : BitVec 2) (s : State) : (takeSample c s).evLed = s.evLed := rfl
@[simp] theorem takeSample_evOther (c : BitVec 2) (s : State) : (takeSample c s).evOther = s.evOther := rfl
@[simp] theorem takeSample_encwPh (c : BitVec 2) (s : State) : (takeSample c s).encwPh = s.encwPh := rfl
@[simp] theorem takeSample_ledwPh (c : BitVec 2) (s : State) : (takeSample c s).ledwPh = s.ledwPh := rfl
@[simp] theorem takeSample_buf (c : BitVec 2) (s : State) : (takeSample c s).buf = s.buf := rfl
@[simp] theorem takeSample_stage (c : BitVec 2) (s : State) : (takeSample c s).stage = s.stage := rfl
@[simp] theorem takeSample_index (c : BitVec 2) (s : State) : (takeSample c s).index = s.index := rfl
@[simp] theorem takeSample_result (c : BitVec 2) (s : State) : (takeSample c s).result = s.result := rfl
@[simp] theorem takeSample_txFrame (c : BitVec 2) (s : State) : (takeSample c s).txFrame = s.txFrame := rfl
@[simp] theorem takeSample_txPos (c : BitVec 2) (s : State) : (takeSample c s).txPos = s.txPos := rfl
@[simp] theorem takeSample_dataPin (c : BitVec 2) (s : State) : (takeSample c s).dataPin = s.dataPin := rfl
@[simp] theorem takeSample_clkPin (c : BitVec 2) (s : State) : (takeSample c s).clkPin = s.clkPin := rfl
@[simp] theorem takeSample_trace (c : BitVec 2) (s : State) : (takeSample c s).trace = s.trace := rfl
@[simp] theorem takeSample_rdata (c : BitVec 2) (s : State) : (takeSample c s).rdata = s.rdata := rfl
@[simp] theorem takeSample_agenda (c : BitVec 2) (s : State) : (takeSample c s).agenda = s.agenda := rfl
@[simp] theorem takeSample_draws (c : BitVec 2) (s : State) : (takeSample c s).draws = s.draws := rfl
@[simp] theorem takeSample_raw (c : BitVec 2) (s : State) : (takeSample c s).raw = movedRaw s (dirDelta s.prevSample c) := rfl
@[simp] theorem takeSample_prevSample (c : BitVec 2) (s : State) : (takeSample c s).prevSample = c := rfl
@[simp] theorem takeSample_tPrev (c : BitVec 2) (s : State) : (takeSample c s).tPrev = s.tLast := rfl
@[simp] theorem takeSample_tLast (c : BitVec 2) (s : State) : (takeSample c s).tLast = s.time := rfl
@[simp] theorem takeSample_extPrev (c : BitVec 2) (s : State) : (takeSample c s).extPrev = s.ext := rfl
@[simp] theorem takeSample_seq (c : BitVec 2) (s : State) : (takeSample c s).seq = s.seq + 1 := rfl

/-! ### `sampleEncoder`: `update()` without its phase -/

@[simp] theorem sampleEncoder_cfg (s : State) : (sampleEncoder s).cfg = s.cfg := by unfold sampleEncoder; dsimp only; split <;> rfl
@[simp] theorem sampleEncoder_padA (s : State) : (sampleEncoder s).padA = s.padA := by unfold sampleEncoder; dsimp only; split <;> rfl
@[simp] theorem sampleEncoder_padB (s : State) : (sampleEncoder s).padB = s.padB := by unfold sampleEncoder; dsimp only; split <;> rfl
@[simp] theorem sampleEncoder_syncA (s : State) : (sampleEncoder s).syncA = s.syncA := by unfold sampleEncoder; dsimp only; split <;> rfl
@[simp] theorem sampleEncoder_syncB (s : State) : (sampleEncoder s).syncB = s.syncB := by unfold sampleEncoder; dsimp only; split <;> rfl
@[simp] theorem sampleEncoder_time (s : State) : (sampleEncoder s).time = s.time := by unfold sampleEncoder; dsimp only; split <;> rfl
@[simp] theorem sampleEncoder_en (s : State) : (sampleEncoder s).en = s.en := by unfold sampleEncoder; dsimp only; split <;> rfl
@[simp] theorem sampleEncoder_latchMode (s : State) : (sampleEncoder s).latchMode = s.latchMode := by unfold sampleEncoder; dsimp only; split <;> rfl
@[simp] theorem sampleEncoder_clampEn (s : State) : (sampleEncoder s).clampEn = s.clampEn := by unfold sampleEncoder; dsimp only; split <;> rfl
@[simp] theorem sampleEncoder_minPos (s : State) : (sampleEncoder s).minPos = s.minPos := by unfold sampleEncoder; dsimp only; split <;> rfl
@[simp] theorem sampleEncoder_maxPos (s : State) : (sampleEncoder s).maxPos = s.maxPos := by unfold sampleEncoder; dsimp only; split <;> rfl
@[simp] theorem sampleEncoder_evEnc (s : State) : (sampleEncoder s).evEnc = s.evEnc := by unfold sampleEncoder; dsimp only; split <;> rfl
@[simp] theorem sampleEncoder_evLed (s : State) : (sampleEncoder s).evLed = s.evLed := by unfold sampleEncoder; dsimp only; split <;> rfl
@[simp] theorem sampleEncoder_evOther (s : State) : (sampleEncoder s).evOther = s.evOther := by unfold sampleEncoder; dsimp only; split <;> rfl
@[simp] theorem sampleEncoder_encwPh (s : State) : (sampleEncoder s).encwPh = s.encwPh := by unfold sampleEncoder; dsimp only; split <;> rfl
@[simp] theorem sampleEncoder_ledwPh (s : State) : (sampleEncoder s).ledwPh = s.ledwPh := by unfold sampleEncoder; dsimp only; split <;> rfl
@[simp] theorem sampleEncoder_buf (s : State) : (sampleEncoder s).buf = s.buf := by unfold sampleEncoder; dsimp only; split <;> rfl
@[simp] theorem sampleEncoder_stage (s : State) : (sampleEncoder s).stage = s.stage := by unfold sampleEncoder; dsimp only; split <;> rfl
@[simp] theorem sampleEncoder_index (s : State) : (sampleEncoder s).index = s.index := by unfold sampleEncoder; dsimp only; split <;> rfl
@[simp] theorem sampleEncoder_result (s : State) : (sampleEncoder s).result = s.result := by unfold sampleEncoder; dsimp only; split <;> rfl
@[simp] theorem sampleEncoder_txFrame (s : State) : (sampleEncoder s).txFrame = s.txFrame := by unfold sampleEncoder; dsimp only; split <;> rfl
@[simp] theorem sampleEncoder_txPos (s : State) : (sampleEncoder s).txPos = s.txPos := by unfold sampleEncoder; dsimp only; split <;> rfl
@[simp] theorem sampleEncoder_dataPin (s : State) : (sampleEncoder s).dataPin = s.dataPin := by unfold sampleEncoder; dsimp only; split <;> rfl
@[simp] theorem sampleEncoder_clkPin (s : State) : (sampleEncoder s).clkPin = s.clkPin := by unfold sampleEncoder; dsimp only; split <;> rfl
@[simp] theorem sampleEncoder_trace (s : State) : (sampleEncoder s).trace = s.trace := by unfold sampleEncoder; dsimp only; split <;> rfl
@[simp] theorem sampleEncoder_rdata (s : State) : (sampleEncoder s).rdata = s.rdata := by unfold sampleEncoder; dsimp only; split <;> rfl
@[simp] theorem sampleEncoder_agenda (s : State) : (sampleEncoder s).agenda = s.agenda := by unfold sampleEncoder; dsimp only; split <;> rfl
@[simp] theorem sampleEncoder_draws (s : State) : (sampleEncoder s).draws = s.draws := by unfold sampleEncoder; dsimp only; split <;> rfl
/-- An unchanged sample changes nothing (41_quadrature_decoder.md R152). -/
theorem sampleEncoder_same (s : State) (h : sampleOf s.syncA s.syncB = s.prevSample) : sampleEncoder s = s := if_pos h

/-- A changed sample is taken (41_quadrature_decoder.md R152). -/
theorem sampleEncoder_changed (s : State) (h : sampleOf s.syncA s.syncB ≠ s.prevSample) :
    sampleEncoder s = takeSample (sampleOf s.syncA s.syncB) s := if_neg h

/-! ### `setPosition`: the encoder's set position -/

@[simp] theorem setPosition_cfg (p : Int) (s : State) : (setPosition p s).cfg = s.cfg := rfl
@[simp] theorem setPosition_padA (p : Int) (s : State) : (setPosition p s).padA = s.padA := rfl
@[simp] theorem setPosition_padB (p : Int) (s : State) : (setPosition p s).padB = s.padB := rfl
@[simp] theorem setPosition_syncA (p : Int) (s : State) : (setPosition p s).syncA = s.syncA := rfl
@[simp] theorem setPosition_syncB (p : Int) (s : State) : (setPosition p s).syncB = s.syncB := rfl
@[simp] theorem setPosition_prevSample (p : Int) (s : State) : (setPosition p s).prevSample = s.prevSample := rfl
@[simp] theorem setPosition_tLast (p : Int) (s : State) : (setPosition p s).tLast = s.tLast := rfl
@[simp] theorem setPosition_tPrev (p : Int) (s : State) : (setPosition p s).tPrev = s.tPrev := rfl
@[simp] theorem setPosition_time (p : Int) (s : State) : (setPosition p s).time = s.time := rfl
@[simp] theorem setPosition_en (p : Int) (s : State) : (setPosition p s).en = s.en := rfl
@[simp] theorem setPosition_latchMode (p : Int) (s : State) : (setPosition p s).latchMode = s.latchMode := rfl
@[simp] theorem setPosition_clampEn (p : Int) (s : State) : (setPosition p s).clampEn = s.clampEn := rfl
@[simp] theorem setPosition_minPos (p : Int) (s : State) : (setPosition p s).minPos = s.minPos := rfl
@[simp] theorem setPosition_maxPos (p : Int) (s : State) : (setPosition p s).maxPos = s.maxPos := rfl
@[simp] theorem setPosition_evEnc (p : Int) (s : State) : (setPosition p s).evEnc = s.evEnc := rfl
@[simp] theorem setPosition_evLed (p : Int) (s : State) : (setPosition p s).evLed = s.evLed := rfl
@[simp] theorem setPosition_evOther (p : Int) (s : State) : (setPosition p s).evOther = s.evOther := rfl
@[simp] theorem setPosition_encwPh (p : Int) (s : State) : (setPosition p s).encwPh = s.encwPh := rfl
@[simp] theorem setPosition_ledwPh (p : Int) (s : State) : (setPosition p s).ledwPh = s.ledwPh := rfl
@[simp] theorem setPosition_buf (p : Int) (s : State) : (setPosition p s).buf = s.buf := rfl
@[simp] theorem setPosition_stage (p : Int) (s : State) : (setPosition p s).stage = s.stage := rfl
@[simp] theorem setPosition_index (p : Int) (s : State) : (setPosition p s).index = s.index := rfl
@[simp] theorem setPosition_result (p : Int) (s : State) : (setPosition p s).result = s.result := rfl
@[simp] theorem setPosition_txFrame (p : Int) (s : State) : (setPosition p s).txFrame = s.txFrame := rfl
@[simp] theorem setPosition_txPos (p : Int) (s : State) : (setPosition p s).txPos = s.txPos := rfl
@[simp] theorem setPosition_dataPin (p : Int) (s : State) : (setPosition p s).dataPin = s.dataPin := rfl
@[simp] theorem setPosition_clkPin (p : Int) (s : State) : (setPosition p s).clkPin = s.clkPin := rfl
@[simp] theorem setPosition_trace (p : Int) (s : State) : (setPosition p s).trace = s.trace := rfl
@[simp] theorem setPosition_rdata (p : Int) (s : State) : (setPosition p s).rdata = s.rdata := rfl
@[simp] theorem setPosition_agenda (p : Int) (s : State) : (setPosition p s).agenda = s.agenda := rfl
@[simp] theorem setPosition_draws (p : Int) (s : State) : (setPosition p s).draws = s.draws := rfl
@[simp] theorem setPosition_raw (p : Int) (s : State) : (setPosition p s).raw = reseededRaw s p := rfl
@[simp] theorem setPosition_ext (p : Int) (s : State) : (setPosition p s).ext = asr (reseededRaw s p) (shiftOf s.latchMode) := rfl
@[simp] theorem setPosition_extPrev (p : Int) (s : State) : (setPosition p s).extPrev = asr (reseededRaw s p) (shiftOf s.latchMode) := rfl
@[simp] theorem setPosition_seq (p : Int) (s : State) : (setPosition p s).seq = s.seq + 1 := rfl

/-! ### `writeCtrl`: a write of `ENC_CTRL` -/

@[simp] theorem writeCtrl_cfg (v : Word) (s : State) : (writeCtrl v s).cfg = s.cfg := rfl
@[simp] theorem writeCtrl_padA (v : Word) (s : State) : (writeCtrl v s).padA = s.padA := rfl
@[simp] theorem writeCtrl_padB (v : Word) (s : State) : (writeCtrl v s).padB = s.padB := rfl
@[simp] theorem writeCtrl_syncA (v : Word) (s : State) : (writeCtrl v s).syncA = s.syncA := rfl
@[simp] theorem writeCtrl_syncB (v : Word) (s : State) : (writeCtrl v s).syncB = s.syncB := rfl
@[simp] theorem writeCtrl_prevSample (v : Word) (s : State) : (writeCtrl v s).prevSample = s.prevSample := rfl
@[simp] theorem writeCtrl_raw (v : Word) (s : State) : (writeCtrl v s).raw = s.raw := rfl
@[simp] theorem writeCtrl_ext (v : Word) (s : State) : (writeCtrl v s).ext = s.ext := rfl
@[simp] theorem writeCtrl_extPrev (v : Word) (s : State) : (writeCtrl v s).extPrev = s.extPrev := rfl
@[simp] theorem writeCtrl_tLast (v : Word) (s : State) : (writeCtrl v s).tLast = s.tLast := rfl
@[simp] theorem writeCtrl_tPrev (v : Word) (s : State) : (writeCtrl v s).tPrev = s.tPrev := rfl
@[simp] theorem writeCtrl_time (v : Word) (s : State) : (writeCtrl v s).time = s.time := rfl
@[simp] theorem writeCtrl_seq (v : Word) (s : State) : (writeCtrl v s).seq = s.seq := rfl
@[simp] theorem writeCtrl_minPos (v : Word) (s : State) : (writeCtrl v s).minPos = s.minPos := rfl
@[simp] theorem writeCtrl_maxPos (v : Word) (s : State) : (writeCtrl v s).maxPos = s.maxPos := rfl
@[simp] theorem writeCtrl_evEnc (v : Word) (s : State) : (writeCtrl v s).evEnc = s.evEnc := rfl
@[simp] theorem writeCtrl_evLed (v : Word) (s : State) : (writeCtrl v s).evLed = s.evLed := rfl
@[simp] theorem writeCtrl_evOther (v : Word) (s : State) : (writeCtrl v s).evOther = s.evOther := rfl
@[simp] theorem writeCtrl_encwPh (v : Word) (s : State) : (writeCtrl v s).encwPh = s.encwPh := rfl
@[simp] theorem writeCtrl_ledwPh (v : Word) (s : State) : (writeCtrl v s).ledwPh = s.ledwPh := rfl
@[simp] theorem writeCtrl_buf (v : Word) (s : State) : (writeCtrl v s).buf = s.buf := rfl
@[simp] theorem writeCtrl_stage (v : Word) (s : State) : (writeCtrl v s).stage = s.stage := rfl
@[simp] theorem writeCtrl_index (v : Word) (s : State) : (writeCtrl v s).index = s.index := rfl
@[simp] theorem writeCtrl_result (v : Word) (s : State) : (writeCtrl v s).result = s.result := rfl
@[simp] theorem writeCtrl_txFrame (v : Word) (s : State) : (writeCtrl v s).txFrame = s.txFrame := rfl
@[simp] theorem writeCtrl_txPos (v : Word) (s : State) : (writeCtrl v s).txPos = s.txPos := rfl
@[simp] theorem writeCtrl_dataPin (v : Word) (s : State) : (writeCtrl v s).dataPin = s.dataPin := rfl
@[simp] theorem writeCtrl_clkPin (v : Word) (s : State) : (writeCtrl v s).clkPin = s.clkPin := rfl
@[simp] theorem writeCtrl_trace (v : Word) (s : State) : (writeCtrl v s).trace = s.trace := rfl
@[simp] theorem writeCtrl_rdata (v : Word) (s : State) : (writeCtrl v s).rdata = s.rdata := rfl
@[simp] theorem writeCtrl_agenda (v : Word) (s : State) : (writeCtrl v s).agenda = s.agenda := rfl
@[simp] theorem writeCtrl_draws (v : Word) (s : State) : (writeCtrl v s).draws = s.draws := rfl
@[simp] theorem writeCtrl_en (v : Word) (s : State) : (writeCtrl v s).en = ctrlEn v := rfl
@[simp] theorem writeCtrl_latchMode (v : Word) (s : State) :
    (writeCtrl v s).latchMode = (latchModeOf (ctrlMode v)).getD s.latchMode := rfl
@[simp] theorem writeCtrl_clampEn (v : Word) (s : State) : (writeCtrl v s).clampEn = ctrlClamp v := rfl

/-! ### `edgeEvent`: an edge event, set only while enabled -/

@[simp] theorem edgeEvent_cfg (m : Word) (s : State) : (edgeEvent m s).cfg = s.cfg := by unfold edgeEvent; split <;> rfl
@[simp] theorem edgeEvent_padA (m : Word) (s : State) : (edgeEvent m s).padA = s.padA := by unfold edgeEvent; split <;> rfl
@[simp] theorem edgeEvent_padB (m : Word) (s : State) : (edgeEvent m s).padB = s.padB := by unfold edgeEvent; split <;> rfl
@[simp] theorem edgeEvent_syncA (m : Word) (s : State) : (edgeEvent m s).syncA = s.syncA := by unfold edgeEvent; split <;> rfl
@[simp] theorem edgeEvent_syncB (m : Word) (s : State) : (edgeEvent m s).syncB = s.syncB := by unfold edgeEvent; split <;> rfl
@[simp] theorem edgeEvent_prevSample (m : Word) (s : State) : (edgeEvent m s).prevSample = s.prevSample := by unfold edgeEvent; split <;> rfl
@[simp] theorem edgeEvent_raw (m : Word) (s : State) : (edgeEvent m s).raw = s.raw := by unfold edgeEvent; split <;> rfl
@[simp] theorem edgeEvent_ext (m : Word) (s : State) : (edgeEvent m s).ext = s.ext := by unfold edgeEvent; split <;> rfl
@[simp] theorem edgeEvent_extPrev (m : Word) (s : State) : (edgeEvent m s).extPrev = s.extPrev := by unfold edgeEvent; split <;> rfl
@[simp] theorem edgeEvent_tLast (m : Word) (s : State) : (edgeEvent m s).tLast = s.tLast := by unfold edgeEvent; split <;> rfl
@[simp] theorem edgeEvent_tPrev (m : Word) (s : State) : (edgeEvent m s).tPrev = s.tPrev := by unfold edgeEvent; split <;> rfl
@[simp] theorem edgeEvent_time (m : Word) (s : State) : (edgeEvent m s).time = s.time := by unfold edgeEvent; split <;> rfl
@[simp] theorem edgeEvent_seq (m : Word) (s : State) : (edgeEvent m s).seq = s.seq := by unfold edgeEvent; split <;> rfl
@[simp] theorem edgeEvent_en (m : Word) (s : State) : (edgeEvent m s).en = s.en := by unfold edgeEvent; split <;> rfl
@[simp] theorem edgeEvent_latchMode (m : Word) (s : State) : (edgeEvent m s).latchMode = s.latchMode := by unfold edgeEvent; split <;> rfl
@[simp] theorem edgeEvent_clampEn (m : Word) (s : State) : (edgeEvent m s).clampEn = s.clampEn := by unfold edgeEvent; split <;> rfl
@[simp] theorem edgeEvent_minPos (m : Word) (s : State) : (edgeEvent m s).minPos = s.minPos := by unfold edgeEvent; split <;> rfl
@[simp] theorem edgeEvent_maxPos (m : Word) (s : State) : (edgeEvent m s).maxPos = s.maxPos := by unfold edgeEvent; split <;> rfl
@[simp] theorem edgeEvent_evLed (m : Word) (s : State) : (edgeEvent m s).evLed = s.evLed := by unfold edgeEvent; split <;> rfl
@[simp] theorem edgeEvent_evOther (m : Word) (s : State) : (edgeEvent m s).evOther = s.evOther := by unfold edgeEvent; split <;> rfl
@[simp] theorem edgeEvent_encwPh (m : Word) (s : State) : (edgeEvent m s).encwPh = s.encwPh := by unfold edgeEvent; split <;> rfl
@[simp] theorem edgeEvent_ledwPh (m : Word) (s : State) : (edgeEvent m s).ledwPh = s.ledwPh := by unfold edgeEvent; split <;> rfl
@[simp] theorem edgeEvent_buf (m : Word) (s : State) : (edgeEvent m s).buf = s.buf := by unfold edgeEvent; split <;> rfl
@[simp] theorem edgeEvent_stage (m : Word) (s : State) : (edgeEvent m s).stage = s.stage := by unfold edgeEvent; split <;> rfl
@[simp] theorem edgeEvent_index (m : Word) (s : State) : (edgeEvent m s).index = s.index := by unfold edgeEvent; split <;> rfl
@[simp] theorem edgeEvent_result (m : Word) (s : State) : (edgeEvent m s).result = s.result := by unfold edgeEvent; split <;> rfl
@[simp] theorem edgeEvent_txFrame (m : Word) (s : State) : (edgeEvent m s).txFrame = s.txFrame := by unfold edgeEvent; split <;> rfl
@[simp] theorem edgeEvent_txPos (m : Word) (s : State) : (edgeEvent m s).txPos = s.txPos := by unfold edgeEvent; split <;> rfl
@[simp] theorem edgeEvent_dataPin (m : Word) (s : State) : (edgeEvent m s).dataPin = s.dataPin := by unfold edgeEvent; split <;> rfl
@[simp] theorem edgeEvent_clkPin (m : Word) (s : State) : (edgeEvent m s).clkPin = s.clkPin := by unfold edgeEvent; split <;> rfl
@[simp] theorem edgeEvent_trace (m : Word) (s : State) : (edgeEvent m s).trace = s.trace := by unfold edgeEvent; split <;> rfl
@[simp] theorem edgeEvent_rdata (m : Word) (s : State) : (edgeEvent m s).rdata = s.rdata := by unfold edgeEvent; split <;> rfl
@[simp] theorem edgeEvent_agenda (m : Word) (s : State) : (edgeEvent m s).agenda = s.agenda := by unfold edgeEvent; split <;> rfl
@[simp] theorem edgeEvent_draws (m : Word) (s : State) : (edgeEvent m s).draws = s.draws := by unfold edgeEvent; split <;> rfl

/-! ### `syncPadA`, `syncPadB`: the synchronisers -/

@[simp] theorem syncPadA_cfg (s : State) : (syncPadA s).cfg = s.cfg := by unfold syncPadA edgeEvent; split <;> rfl
@[simp] theorem syncPadA_padA (s : State) : (syncPadA s).padA = s.padA := by unfold syncPadA edgeEvent; split <;> rfl
@[simp] theorem syncPadA_padB (s : State) : (syncPadA s).padB = s.padB := by unfold syncPadA edgeEvent; split <;> rfl
@[simp] theorem syncPadA_syncB (s : State) : (syncPadA s).syncB = s.syncB := by unfold syncPadA edgeEvent; split <;> rfl
@[simp] theorem syncPadA_prevSample (s : State) : (syncPadA s).prevSample = s.prevSample := by unfold syncPadA edgeEvent; split <;> rfl
@[simp] theorem syncPadA_raw (s : State) : (syncPadA s).raw = s.raw := by unfold syncPadA edgeEvent; split <;> rfl
@[simp] theorem syncPadA_ext (s : State) : (syncPadA s).ext = s.ext := by unfold syncPadA edgeEvent; split <;> rfl
@[simp] theorem syncPadA_extPrev (s : State) : (syncPadA s).extPrev = s.extPrev := by unfold syncPadA edgeEvent; split <;> rfl
@[simp] theorem syncPadA_tLast (s : State) : (syncPadA s).tLast = s.tLast := by unfold syncPadA edgeEvent; split <;> rfl
@[simp] theorem syncPadA_tPrev (s : State) : (syncPadA s).tPrev = s.tPrev := by unfold syncPadA edgeEvent; split <;> rfl
@[simp] theorem syncPadA_time (s : State) : (syncPadA s).time = s.time := by unfold syncPadA edgeEvent; split <;> rfl
@[simp] theorem syncPadA_seq (s : State) : (syncPadA s).seq = s.seq := by unfold syncPadA edgeEvent; split <;> rfl
@[simp] theorem syncPadA_en (s : State) : (syncPadA s).en = s.en := by unfold syncPadA edgeEvent; split <;> rfl
@[simp] theorem syncPadA_latchMode (s : State) : (syncPadA s).latchMode = s.latchMode := by unfold syncPadA edgeEvent; split <;> rfl
@[simp] theorem syncPadA_clampEn (s : State) : (syncPadA s).clampEn = s.clampEn := by unfold syncPadA edgeEvent; split <;> rfl
@[simp] theorem syncPadA_minPos (s : State) : (syncPadA s).minPos = s.minPos := by unfold syncPadA edgeEvent; split <;> rfl
@[simp] theorem syncPadA_maxPos (s : State) : (syncPadA s).maxPos = s.maxPos := by unfold syncPadA edgeEvent; split <;> rfl
@[simp] theorem syncPadA_evLed (s : State) : (syncPadA s).evLed = s.evLed := by unfold syncPadA edgeEvent; split <;> rfl
@[simp] theorem syncPadA_evOther (s : State) : (syncPadA s).evOther = s.evOther := by unfold syncPadA edgeEvent; split <;> rfl
@[simp] theorem syncPadA_encwPh (s : State) : (syncPadA s).encwPh = s.encwPh := by unfold syncPadA edgeEvent; split <;> rfl
@[simp] theorem syncPadA_ledwPh (s : State) : (syncPadA s).ledwPh = s.ledwPh := by unfold syncPadA edgeEvent; split <;> rfl
@[simp] theorem syncPadA_buf (s : State) : (syncPadA s).buf = s.buf := by unfold syncPadA edgeEvent; split <;> rfl
@[simp] theorem syncPadA_stage (s : State) : (syncPadA s).stage = s.stage := by unfold syncPadA edgeEvent; split <;> rfl
@[simp] theorem syncPadA_index (s : State) : (syncPadA s).index = s.index := by unfold syncPadA edgeEvent; split <;> rfl
@[simp] theorem syncPadA_result (s : State) : (syncPadA s).result = s.result := by unfold syncPadA edgeEvent; split <;> rfl
@[simp] theorem syncPadA_txFrame (s : State) : (syncPadA s).txFrame = s.txFrame := by unfold syncPadA edgeEvent; split <;> rfl
@[simp] theorem syncPadA_txPos (s : State) : (syncPadA s).txPos = s.txPos := by unfold syncPadA edgeEvent; split <;> rfl
@[simp] theorem syncPadA_dataPin (s : State) : (syncPadA s).dataPin = s.dataPin := by unfold syncPadA edgeEvent; split <;> rfl
@[simp] theorem syncPadA_clkPin (s : State) : (syncPadA s).clkPin = s.clkPin := by unfold syncPadA edgeEvent; split <;> rfl
@[simp] theorem syncPadA_trace (s : State) : (syncPadA s).trace = s.trace := by unfold syncPadA edgeEvent; split <;> rfl
@[simp] theorem syncPadA_rdata (s : State) : (syncPadA s).rdata = s.rdata := by unfold syncPadA edgeEvent; split <;> rfl
@[simp] theorem syncPadA_agenda (s : State) : (syncPadA s).agenda = s.agenda := by unfold syncPadA edgeEvent; split <;> rfl
@[simp] theorem syncPadA_draws (s : State) : (syncPadA s).draws = s.draws := by unfold syncPadA edgeEvent; split <;> rfl
@[simp] theorem syncPadA_syncA (s : State) : (syncPadA s).syncA = s.padA := by unfold syncPadA edgeEvent; split <;> rfl

/-! ### `syncPadB` -/

@[simp] theorem syncPadB_cfg (s : State) : (syncPadB s).cfg = s.cfg := by unfold syncPadB edgeEvent; split <;> rfl
@[simp] theorem syncPadB_padA (s : State) : (syncPadB s).padA = s.padA := by unfold syncPadB edgeEvent; split <;> rfl
@[simp] theorem syncPadB_padB (s : State) : (syncPadB s).padB = s.padB := by unfold syncPadB edgeEvent; split <;> rfl
@[simp] theorem syncPadB_syncA (s : State) : (syncPadB s).syncA = s.syncA := by unfold syncPadB edgeEvent; split <;> rfl
@[simp] theorem syncPadB_prevSample (s : State) : (syncPadB s).prevSample = s.prevSample := by unfold syncPadB edgeEvent; split <;> rfl
@[simp] theorem syncPadB_raw (s : State) : (syncPadB s).raw = s.raw := by unfold syncPadB edgeEvent; split <;> rfl
@[simp] theorem syncPadB_ext (s : State) : (syncPadB s).ext = s.ext := by unfold syncPadB edgeEvent; split <;> rfl
@[simp] theorem syncPadB_extPrev (s : State) : (syncPadB s).extPrev = s.extPrev := by unfold syncPadB edgeEvent; split <;> rfl
@[simp] theorem syncPadB_tLast (s : State) : (syncPadB s).tLast = s.tLast := by unfold syncPadB edgeEvent; split <;> rfl
@[simp] theorem syncPadB_tPrev (s : State) : (syncPadB s).tPrev = s.tPrev := by unfold syncPadB edgeEvent; split <;> rfl
@[simp] theorem syncPadB_time (s : State) : (syncPadB s).time = s.time := by unfold syncPadB edgeEvent; split <;> rfl
@[simp] theorem syncPadB_seq (s : State) : (syncPadB s).seq = s.seq := by unfold syncPadB edgeEvent; split <;> rfl
@[simp] theorem syncPadB_en (s : State) : (syncPadB s).en = s.en := by unfold syncPadB edgeEvent; split <;> rfl
@[simp] theorem syncPadB_latchMode (s : State) : (syncPadB s).latchMode = s.latchMode := by unfold syncPadB edgeEvent; split <;> rfl
@[simp] theorem syncPadB_clampEn (s : State) : (syncPadB s).clampEn = s.clampEn := by unfold syncPadB edgeEvent; split <;> rfl
@[simp] theorem syncPadB_minPos (s : State) : (syncPadB s).minPos = s.minPos := by unfold syncPadB edgeEvent; split <;> rfl
@[simp] theorem syncPadB_maxPos (s : State) : (syncPadB s).maxPos = s.maxPos := by unfold syncPadB edgeEvent; split <;> rfl
@[simp] theorem syncPadB_evLed (s : State) : (syncPadB s).evLed = s.evLed := by unfold syncPadB edgeEvent; split <;> rfl
@[simp] theorem syncPadB_evOther (s : State) : (syncPadB s).evOther = s.evOther := by unfold syncPadB edgeEvent; split <;> rfl
@[simp] theorem syncPadB_encwPh (s : State) : (syncPadB s).encwPh = s.encwPh := by unfold syncPadB edgeEvent; split <;> rfl
@[simp] theorem syncPadB_ledwPh (s : State) : (syncPadB s).ledwPh = s.ledwPh := by unfold syncPadB edgeEvent; split <;> rfl
@[simp] theorem syncPadB_buf (s : State) : (syncPadB s).buf = s.buf := by unfold syncPadB edgeEvent; split <;> rfl
@[simp] theorem syncPadB_stage (s : State) : (syncPadB s).stage = s.stage := by unfold syncPadB edgeEvent; split <;> rfl
@[simp] theorem syncPadB_index (s : State) : (syncPadB s).index = s.index := by unfold syncPadB edgeEvent; split <;> rfl
@[simp] theorem syncPadB_result (s : State) : (syncPadB s).result = s.result := by unfold syncPadB edgeEvent; split <;> rfl
@[simp] theorem syncPadB_txFrame (s : State) : (syncPadB s).txFrame = s.txFrame := by unfold syncPadB edgeEvent; split <;> rfl
@[simp] theorem syncPadB_txPos (s : State) : (syncPadB s).txPos = s.txPos := by unfold syncPadB edgeEvent; split <;> rfl
@[simp] theorem syncPadB_dataPin (s : State) : (syncPadB s).dataPin = s.dataPin := by unfold syncPadB edgeEvent; split <;> rfl
@[simp] theorem syncPadB_clkPin (s : State) : (syncPadB s).clkPin = s.clkPin := by unfold syncPadB edgeEvent; split <;> rfl
@[simp] theorem syncPadB_trace (s : State) : (syncPadB s).trace = s.trace := by unfold syncPadB edgeEvent; split <;> rfl
@[simp] theorem syncPadB_rdata (s : State) : (syncPadB s).rdata = s.rdata := by unfold syncPadB edgeEvent; split <;> rfl
@[simp] theorem syncPadB_agenda (s : State) : (syncPadB s).agenda = s.agenda := by unfold syncPadB edgeEvent; split <;> rfl
@[simp] theorem syncPadB_draws (s : State) : (syncPadB s).draws = s.draws := by unfold syncPadB edgeEvent; split <;> rfl
@[simp] theorem syncPadB_syncB (s : State) : (syncPadB s).syncB = s.padB := by unfold syncPadB edgeEvent; split <;> rfl

/-! ### `setOne`: set one -/

@[simp] theorem setOne_cfg (c : Colour) (s : State) : (setOne c s).cfg = s.cfg := by unfold setOne; split <;> rfl
@[simp] theorem setOne_padA (c : Colour) (s : State) : (setOne c s).padA = s.padA := by unfold setOne; split <;> rfl
@[simp] theorem setOne_padB (c : Colour) (s : State) : (setOne c s).padB = s.padB := by unfold setOne; split <;> rfl
@[simp] theorem setOne_syncA (c : Colour) (s : State) : (setOne c s).syncA = s.syncA := by unfold setOne; split <;> rfl
@[simp] theorem setOne_syncB (c : Colour) (s : State) : (setOne c s).syncB = s.syncB := by unfold setOne; split <;> rfl
@[simp] theorem setOne_prevSample (c : Colour) (s : State) : (setOne c s).prevSample = s.prevSample := by unfold setOne; split <;> rfl
@[simp] theorem setOne_raw (c : Colour) (s : State) : (setOne c s).raw = s.raw := by unfold setOne; split <;> rfl
@[simp] theorem setOne_ext (c : Colour) (s : State) : (setOne c s).ext = s.ext := by unfold setOne; split <;> rfl
@[simp] theorem setOne_extPrev (c : Colour) (s : State) : (setOne c s).extPrev = s.extPrev := by unfold setOne; split <;> rfl
@[simp] theorem setOne_tLast (c : Colour) (s : State) : (setOne c s).tLast = s.tLast := by unfold setOne; split <;> rfl
@[simp] theorem setOne_tPrev (c : Colour) (s : State) : (setOne c s).tPrev = s.tPrev := by unfold setOne; split <;> rfl
@[simp] theorem setOne_time (c : Colour) (s : State) : (setOne c s).time = s.time := by unfold setOne; split <;> rfl
@[simp] theorem setOne_seq (c : Colour) (s : State) : (setOne c s).seq = s.seq := by unfold setOne; split <;> rfl
@[simp] theorem setOne_en (c : Colour) (s : State) : (setOne c s).en = s.en := by unfold setOne; split <;> rfl
@[simp] theorem setOne_latchMode (c : Colour) (s : State) : (setOne c s).latchMode = s.latchMode := by unfold setOne; split <;> rfl
@[simp] theorem setOne_clampEn (c : Colour) (s : State) : (setOne c s).clampEn = s.clampEn := by unfold setOne; split <;> rfl
@[simp] theorem setOne_minPos (c : Colour) (s : State) : (setOne c s).minPos = s.minPos := by unfold setOne; split <;> rfl
@[simp] theorem setOne_maxPos (c : Colour) (s : State) : (setOne c s).maxPos = s.maxPos := by unfold setOne; split <;> rfl
@[simp] theorem setOne_evEnc (c : Colour) (s : State) : (setOne c s).evEnc = s.evEnc := by unfold setOne; split <;> rfl
@[simp] theorem setOne_evOther (c : Colour) (s : State) : (setOne c s).evOther = s.evOther := by unfold setOne; split <;> rfl
@[simp] theorem setOne_encwPh (c : Colour) (s : State) : (setOne c s).encwPh = s.encwPh := by unfold setOne; split <;> rfl
@[simp] theorem setOne_ledwPh (c : Colour) (s : State) : (setOne c s).ledwPh = s.ledwPh := by unfold setOne; split <;> rfl
@[simp] theorem setOne_stage (c : Colour) (s : State) : (setOne c s).stage = s.stage := by unfold setOne; split <;> rfl
@[simp] theorem setOne_index (c : Colour) (s : State) : (setOne c s).index = s.index := by unfold setOne; split <;> rfl
@[simp] theorem setOne_txFrame (c : Colour) (s : State) : (setOne c s).txFrame = s.txFrame := by unfold setOne; split <;> rfl
@[simp] theorem setOne_txPos (c : Colour) (s : State) : (setOne c s).txPos = s.txPos := by unfold setOne; split <;> rfl
@[simp] theorem setOne_dataPin (c : Colour) (s : State) : (setOne c s).dataPin = s.dataPin := by unfold setOne; split <;> rfl
@[simp] theorem setOne_clkPin (c : Colour) (s : State) : (setOne c s).clkPin = s.clkPin := by unfold setOne; split <;> rfl
@[simp] theorem setOne_trace (c : Colour) (s : State) : (setOne c s).trace = s.trace := by unfold setOne; split <;> rfl
@[simp] theorem setOne_rdata (c : Colour) (s : State) : (setOne c s).rdata = s.rdata := by unfold setOne; split <;> rfl
@[simp] theorem setOne_agenda (c : Colour) (s : State) : (setOne c s).agenda = s.agenda := by unfold setOne; split <;> rfl
@[simp] theorem setOne_draws (c : Colour) (s : State) : (setOne c s).draws = s.draws := by unfold setOne; split <;> rfl

/-! ### `setAll`: set all -/

@[simp] theorem setAll_cfg (k : Word) (s : State) : (setAll k s).cfg = s.cfg := by unfold setAll; split <;> rfl
@[simp] theorem setAll_padA (k : Word) (s : State) : (setAll k s).padA = s.padA := by unfold setAll; split <;> rfl
@[simp] theorem setAll_padB (k : Word) (s : State) : (setAll k s).padB = s.padB := by unfold setAll; split <;> rfl
@[simp] theorem setAll_syncA (k : Word) (s : State) : (setAll k s).syncA = s.syncA := by unfold setAll; split <;> rfl
@[simp] theorem setAll_syncB (k : Word) (s : State) : (setAll k s).syncB = s.syncB := by unfold setAll; split <;> rfl
@[simp] theorem setAll_prevSample (k : Word) (s : State) : (setAll k s).prevSample = s.prevSample := by unfold setAll; split <;> rfl
@[simp] theorem setAll_raw (k : Word) (s : State) : (setAll k s).raw = s.raw := by unfold setAll; split <;> rfl
@[simp] theorem setAll_ext (k : Word) (s : State) : (setAll k s).ext = s.ext := by unfold setAll; split <;> rfl
@[simp] theorem setAll_extPrev (k : Word) (s : State) : (setAll k s).extPrev = s.extPrev := by unfold setAll; split <;> rfl
@[simp] theorem setAll_tLast (k : Word) (s : State) : (setAll k s).tLast = s.tLast := by unfold setAll; split <;> rfl
@[simp] theorem setAll_tPrev (k : Word) (s : State) : (setAll k s).tPrev = s.tPrev := by unfold setAll; split <;> rfl
@[simp] theorem setAll_time (k : Word) (s : State) : (setAll k s).time = s.time := by unfold setAll; split <;> rfl
@[simp] theorem setAll_seq (k : Word) (s : State) : (setAll k s).seq = s.seq := by unfold setAll; split <;> rfl
@[simp] theorem setAll_en (k : Word) (s : State) : (setAll k s).en = s.en := by unfold setAll; split <;> rfl
@[simp] theorem setAll_latchMode (k : Word) (s : State) : (setAll k s).latchMode = s.latchMode := by unfold setAll; split <;> rfl
@[simp] theorem setAll_clampEn (k : Word) (s : State) : (setAll k s).clampEn = s.clampEn := by unfold setAll; split <;> rfl
@[simp] theorem setAll_minPos (k : Word) (s : State) : (setAll k s).minPos = s.minPos := by unfold setAll; split <;> rfl
@[simp] theorem setAll_maxPos (k : Word) (s : State) : (setAll k s).maxPos = s.maxPos := by unfold setAll; split <;> rfl
@[simp] theorem setAll_evEnc (k : Word) (s : State) : (setAll k s).evEnc = s.evEnc := by unfold setAll; split <;> rfl
@[simp] theorem setAll_evOther (k : Word) (s : State) : (setAll k s).evOther = s.evOther := by unfold setAll; split <;> rfl
@[simp] theorem setAll_encwPh (k : Word) (s : State) : (setAll k s).encwPh = s.encwPh := by unfold setAll; split <;> rfl
@[simp] theorem setAll_ledwPh (k : Word) (s : State) : (setAll k s).ledwPh = s.ledwPh := by unfold setAll; split <;> rfl
@[simp] theorem setAll_stage (k : Word) (s : State) : (setAll k s).stage = s.stage := by unfold setAll; split <;> rfl
@[simp] theorem setAll_index (k : Word) (s : State) : (setAll k s).index = s.index := by unfold setAll; split <;> rfl
@[simp] theorem setAll_txFrame (k : Word) (s : State) : (setAll k s).txFrame = s.txFrame := by unfold setAll; split <;> rfl
@[simp] theorem setAll_txPos (k : Word) (s : State) : (setAll k s).txPos = s.txPos := by unfold setAll; split <;> rfl
@[simp] theorem setAll_dataPin (k : Word) (s : State) : (setAll k s).dataPin = s.dataPin := by unfold setAll; split <;> rfl
@[simp] theorem setAll_clkPin (k : Word) (s : State) : (setAll k s).clkPin = s.clkPin := by unfold setAll; split <;> rfl
@[simp] theorem setAll_trace (k : Word) (s : State) : (setAll k s).trace = s.trace := by unfold setAll; split <;> rfl
@[simp] theorem setAll_rdata (k : Word) (s : State) : (setAll k s).rdata = s.rdata := by unfold setAll; split <;> rfl
@[simp] theorem setAll_agenda (k : Word) (s : State) : (setAll k s).agenda = s.agenda := by unfold setAll; split <;> rfl
@[simp] theorem setAll_draws (k : Word) (s : State) : (setAll k s).draws = s.draws := by unfold setAll; split <;> rfl

/-! ### `startFrame`: the start step -/

@[simp] theorem startFrame_cfg (s : State) : (startFrame s).cfg = s.cfg := rfl
@[simp] theorem startFrame_padA (s : State) : (startFrame s).padA = s.padA := rfl
@[simp] theorem startFrame_padB (s : State) : (startFrame s).padB = s.padB := rfl
@[simp] theorem startFrame_syncA (s : State) : (startFrame s).syncA = s.syncA := rfl
@[simp] theorem startFrame_syncB (s : State) : (startFrame s).syncB = s.syncB := rfl
@[simp] theorem startFrame_prevSample (s : State) : (startFrame s).prevSample = s.prevSample := rfl
@[simp] theorem startFrame_raw (s : State) : (startFrame s).raw = s.raw := rfl
@[simp] theorem startFrame_ext (s : State) : (startFrame s).ext = s.ext := rfl
@[simp] theorem startFrame_extPrev (s : State) : (startFrame s).extPrev = s.extPrev := rfl
@[simp] theorem startFrame_tLast (s : State) : (startFrame s).tLast = s.tLast := rfl
@[simp] theorem startFrame_tPrev (s : State) : (startFrame s).tPrev = s.tPrev := rfl
@[simp] theorem startFrame_time (s : State) : (startFrame s).time = s.time := rfl
@[simp] theorem startFrame_seq (s : State) : (startFrame s).seq = s.seq := rfl
@[simp] theorem startFrame_en (s : State) : (startFrame s).en = s.en := rfl
@[simp] theorem startFrame_latchMode (s : State) : (startFrame s).latchMode = s.latchMode := rfl
@[simp] theorem startFrame_clampEn (s : State) : (startFrame s).clampEn = s.clampEn := rfl
@[simp] theorem startFrame_minPos (s : State) : (startFrame s).minPos = s.minPos := rfl
@[simp] theorem startFrame_maxPos (s : State) : (startFrame s).maxPos = s.maxPos := rfl
@[simp] theorem startFrame_evEnc (s : State) : (startFrame s).evEnc = s.evEnc := rfl
@[simp] theorem startFrame_evLed (s : State) : (startFrame s).evLed = s.evLed := rfl
@[simp] theorem startFrame_evOther (s : State) : (startFrame s).evOther = s.evOther := rfl
@[simp] theorem startFrame_encwPh (s : State) : (startFrame s).encwPh = s.encwPh := rfl
@[simp] theorem startFrame_buf (s : State) : (startFrame s).buf = s.buf := rfl
@[simp] theorem startFrame_stage (s : State) : (startFrame s).stage = s.stage := rfl
@[simp] theorem startFrame_index (s : State) : (startFrame s).index = s.index := rfl
@[simp] theorem startFrame_result (s : State) : (startFrame s).result = s.result := rfl
@[simp] theorem startFrame_dataPin (s : State) : (startFrame s).dataPin = s.dataPin := rfl
@[simp] theorem startFrame_clkPin (s : State) : (startFrame s).clkPin = s.clkPin := rfl
@[simp] theorem startFrame_trace (s : State) : (startFrame s).trace = s.trace := rfl
@[simp] theorem startFrame_rdata (s : State) : (startFrame s).rdata = s.rdata := rfl
@[simp] theorem startFrame_agenda (s : State) : (startFrame s).agenda = s.agenda := rfl
@[simp] theorem startFrame_draws (s : State) : (startFrame s).draws = s.draws := rfl
@[simp] theorem startFrame_txFrame (s : State) : (startFrame s).txFrame = serialize (frame s.buf) := rfl
@[simp] theorem startFrame_txPos (s : State) : (startFrame s).txPos = 0 := rfl
@[simp] theorem startFrame_ledwPh (s : State) : (startFrame s).ledwPh = .tx := rfl

/-! ### `emit`: one pin event -/

@[simp] theorem emit_cfg (e : PinEvent) (s : State) : (emit e s).cfg = s.cfg := by unfold emit; split <;> rfl
@[simp] theorem emit_padA (e : PinEvent) (s : State) : (emit e s).padA = s.padA := by unfold emit; split <;> rfl
@[simp] theorem emit_padB (e : PinEvent) (s : State) : (emit e s).padB = s.padB := by unfold emit; split <;> rfl
@[simp] theorem emit_syncA (e : PinEvent) (s : State) : (emit e s).syncA = s.syncA := by unfold emit; split <;> rfl
@[simp] theorem emit_syncB (e : PinEvent) (s : State) : (emit e s).syncB = s.syncB := by unfold emit; split <;> rfl
@[simp] theorem emit_prevSample (e : PinEvent) (s : State) : (emit e s).prevSample = s.prevSample := by unfold emit; split <;> rfl
@[simp] theorem emit_raw (e : PinEvent) (s : State) : (emit e s).raw = s.raw := by unfold emit; split <;> rfl
@[simp] theorem emit_ext (e : PinEvent) (s : State) : (emit e s).ext = s.ext := by unfold emit; split <;> rfl
@[simp] theorem emit_extPrev (e : PinEvent) (s : State) : (emit e s).extPrev = s.extPrev := by unfold emit; split <;> rfl
@[simp] theorem emit_tLast (e : PinEvent) (s : State) : (emit e s).tLast = s.tLast := by unfold emit; split <;> rfl
@[simp] theorem emit_tPrev (e : PinEvent) (s : State) : (emit e s).tPrev = s.tPrev := by unfold emit; split <;> rfl
@[simp] theorem emit_time (e : PinEvent) (s : State) : (emit e s).time = s.time := by unfold emit; split <;> rfl
@[simp] theorem emit_seq (e : PinEvent) (s : State) : (emit e s).seq = s.seq := by unfold emit; split <;> rfl
@[simp] theorem emit_en (e : PinEvent) (s : State) : (emit e s).en = s.en := by unfold emit; split <;> rfl
@[simp] theorem emit_latchMode (e : PinEvent) (s : State) : (emit e s).latchMode = s.latchMode := by unfold emit; split <;> rfl
@[simp] theorem emit_clampEn (e : PinEvent) (s : State) : (emit e s).clampEn = s.clampEn := by unfold emit; split <;> rfl
@[simp] theorem emit_minPos (e : PinEvent) (s : State) : (emit e s).minPos = s.minPos := by unfold emit; split <;> rfl
@[simp] theorem emit_maxPos (e : PinEvent) (s : State) : (emit e s).maxPos = s.maxPos := by unfold emit; split <;> rfl
@[simp] theorem emit_evEnc (e : PinEvent) (s : State) : (emit e s).evEnc = s.evEnc := by unfold emit; split <;> rfl
@[simp] theorem emit_evLed (e : PinEvent) (s : State) : (emit e s).evLed = s.evLed := by unfold emit; split <;> rfl
@[simp] theorem emit_evOther (e : PinEvent) (s : State) : (emit e s).evOther = s.evOther := by unfold emit; split <;> rfl
@[simp] theorem emit_encwPh (e : PinEvent) (s : State) : (emit e s).encwPh = s.encwPh := by unfold emit; split <;> rfl
@[simp] theorem emit_ledwPh (e : PinEvent) (s : State) : (emit e s).ledwPh = s.ledwPh := by unfold emit; split <;> rfl
@[simp] theorem emit_buf (e : PinEvent) (s : State) : (emit e s).buf = s.buf := by unfold emit; split <;> rfl
@[simp] theorem emit_stage (e : PinEvent) (s : State) : (emit e s).stage = s.stage := by unfold emit; split <;> rfl
@[simp] theorem emit_index (e : PinEvent) (s : State) : (emit e s).index = s.index := by unfold emit; split <;> rfl
@[simp] theorem emit_result (e : PinEvent) (s : State) : (emit e s).result = s.result := by unfold emit; split <;> rfl
@[simp] theorem emit_txFrame (e : PinEvent) (s : State) : (emit e s).txFrame = s.txFrame := by unfold emit; split <;> rfl
@[simp] theorem emit_txPos (e : PinEvent) (s : State) : (emit e s).txPos = s.txPos := by unfold emit; split <;> rfl
@[simp] theorem emit_rdata (e : PinEvent) (s : State) : (emit e s).rdata = s.rdata := by unfold emit; split <;> rfl
@[simp] theorem emit_agenda (e : PinEvent) (s : State) : (emit e s).agenda = s.agenda := by unfold emit; split <;> rfl
@[simp] theorem emit_draws (e : PinEvent) (s : State) : (emit e s).draws = s.draws := by unfold emit; split <;> rfl
@[simp] theorem emit_trace (e : PinEvent) (s : State) : (emit e s).trace = s.trace ++ [e] := by unfold emit; split <;> rfl
theorem emit_dataPin (e : PinEvent) (s : State) : (emit e s).dataPin = if e.pin = .data then e.level else s.dataPin := by
  unfold emit; split <;> simp_all
theorem emit_clkPin (e : PinEvent) (s : State) : (emit e s).clkPin = if e.pin = .clk then e.level else s.clkPin := by
  unfold emit; split <;> simp_all

/-! ### `advanceFrame`: to the next event, or to the end of the frame -/

@[simp] theorem advanceFrame_cfg (s : State) : (advanceFrame s).cfg = s.cfg := by unfold advanceFrame; split <;> rfl
@[simp] theorem advanceFrame_padA (s : State) : (advanceFrame s).padA = s.padA := by unfold advanceFrame; split <;> rfl
@[simp] theorem advanceFrame_padB (s : State) : (advanceFrame s).padB = s.padB := by unfold advanceFrame; split <;> rfl
@[simp] theorem advanceFrame_syncA (s : State) : (advanceFrame s).syncA = s.syncA := by unfold advanceFrame; split <;> rfl
@[simp] theorem advanceFrame_syncB (s : State) : (advanceFrame s).syncB = s.syncB := by unfold advanceFrame; split <;> rfl
@[simp] theorem advanceFrame_prevSample (s : State) : (advanceFrame s).prevSample = s.prevSample := by unfold advanceFrame; split <;> rfl
@[simp] theorem advanceFrame_raw (s : State) : (advanceFrame s).raw = s.raw := by unfold advanceFrame; split <;> rfl
@[simp] theorem advanceFrame_ext (s : State) : (advanceFrame s).ext = s.ext := by unfold advanceFrame; split <;> rfl
@[simp] theorem advanceFrame_extPrev (s : State) : (advanceFrame s).extPrev = s.extPrev := by unfold advanceFrame; split <;> rfl
@[simp] theorem advanceFrame_tLast (s : State) : (advanceFrame s).tLast = s.tLast := by unfold advanceFrame; split <;> rfl
@[simp] theorem advanceFrame_tPrev (s : State) : (advanceFrame s).tPrev = s.tPrev := by unfold advanceFrame; split <;> rfl
@[simp] theorem advanceFrame_time (s : State) : (advanceFrame s).time = s.time := by unfold advanceFrame; split <;> rfl
@[simp] theorem advanceFrame_seq (s : State) : (advanceFrame s).seq = s.seq := by unfold advanceFrame; split <;> rfl
@[simp] theorem advanceFrame_en (s : State) : (advanceFrame s).en = s.en := by unfold advanceFrame; split <;> rfl
@[simp] theorem advanceFrame_latchMode (s : State) : (advanceFrame s).latchMode = s.latchMode := by unfold advanceFrame; split <;> rfl
@[simp] theorem advanceFrame_clampEn (s : State) : (advanceFrame s).clampEn = s.clampEn := by unfold advanceFrame; split <;> rfl
@[simp] theorem advanceFrame_minPos (s : State) : (advanceFrame s).minPos = s.minPos := by unfold advanceFrame; split <;> rfl
@[simp] theorem advanceFrame_maxPos (s : State) : (advanceFrame s).maxPos = s.maxPos := by unfold advanceFrame; split <;> rfl
@[simp] theorem advanceFrame_evEnc (s : State) : (advanceFrame s).evEnc = s.evEnc := by unfold advanceFrame; split <;> rfl
@[simp] theorem advanceFrame_evLed (s : State) : (advanceFrame s).evLed = s.evLed := by unfold advanceFrame; split <;> rfl
@[simp] theorem advanceFrame_evOther (s : State) : (advanceFrame s).evOther = s.evOther := by unfold advanceFrame; split <;> rfl
@[simp] theorem advanceFrame_encwPh (s : State) : (advanceFrame s).encwPh = s.encwPh := by unfold advanceFrame; split <;> rfl
@[simp] theorem advanceFrame_buf (s : State) : (advanceFrame s).buf = s.buf := by unfold advanceFrame; split <;> rfl
@[simp] theorem advanceFrame_stage (s : State) : (advanceFrame s).stage = s.stage := by unfold advanceFrame; split <;> rfl
@[simp] theorem advanceFrame_index (s : State) : (advanceFrame s).index = s.index := by unfold advanceFrame; split <;> rfl
@[simp] theorem advanceFrame_result (s : State) : (advanceFrame s).result = s.result := by unfold advanceFrame; split <;> rfl
@[simp] theorem advanceFrame_dataPin (s : State) : (advanceFrame s).dataPin = s.dataPin := by unfold advanceFrame; split <;> rfl
@[simp] theorem advanceFrame_clkPin (s : State) : (advanceFrame s).clkPin = s.clkPin := by unfold advanceFrame; split <;> rfl
@[simp] theorem advanceFrame_trace (s : State) : (advanceFrame s).trace = s.trace := by unfold advanceFrame; split <;> rfl
@[simp] theorem advanceFrame_rdata (s : State) : (advanceFrame s).rdata = s.rdata := by unfold advanceFrame; split <;> rfl
@[simp] theorem advanceFrame_agenda (s : State) : (advanceFrame s).agenda = s.agenda := by unfold advanceFrame; split <;> rfl
@[simp] theorem advanceFrame_draws (s : State) : (advanceFrame s).draws = s.draws := by unfold advanceFrame; split <;> rfl

/-! ### `transmit`: the transmit step -/

@[simp] theorem transmit_cfg (s : State) : (transmit s).cfg = s.cfg := by unfold transmit; split <;> simp
@[simp] theorem transmit_padA (s : State) : (transmit s).padA = s.padA := by unfold transmit; split <;> simp
@[simp] theorem transmit_padB (s : State) : (transmit s).padB = s.padB := by unfold transmit; split <;> simp
@[simp] theorem transmit_syncA (s : State) : (transmit s).syncA = s.syncA := by unfold transmit; split <;> simp
@[simp] theorem transmit_syncB (s : State) : (transmit s).syncB = s.syncB := by unfold transmit; split <;> simp
@[simp] theorem transmit_prevSample (s : State) : (transmit s).prevSample = s.prevSample := by unfold transmit; split <;> simp
@[simp] theorem transmit_raw (s : State) : (transmit s).raw = s.raw := by unfold transmit; split <;> simp
@[simp] theorem transmit_ext (s : State) : (transmit s).ext = s.ext := by unfold transmit; split <;> simp
@[simp] theorem transmit_extPrev (s : State) : (transmit s).extPrev = s.extPrev := by unfold transmit; split <;> simp
@[simp] theorem transmit_tLast (s : State) : (transmit s).tLast = s.tLast := by unfold transmit; split <;> simp
@[simp] theorem transmit_tPrev (s : State) : (transmit s).tPrev = s.tPrev := by unfold transmit; split <;> simp
@[simp] theorem transmit_time (s : State) : (transmit s).time = s.time := by unfold transmit; split <;> simp
@[simp] theorem transmit_seq (s : State) : (transmit s).seq = s.seq := by unfold transmit; split <;> simp
@[simp] theorem transmit_en (s : State) : (transmit s).en = s.en := by unfold transmit; split <;> simp
@[simp] theorem transmit_latchMode (s : State) : (transmit s).latchMode = s.latchMode := by unfold transmit; split <;> simp
@[simp] theorem transmit_clampEn (s : State) : (transmit s).clampEn = s.clampEn := by unfold transmit; split <;> simp
@[simp] theorem transmit_minPos (s : State) : (transmit s).minPos = s.minPos := by unfold transmit; split <;> simp
@[simp] theorem transmit_maxPos (s : State) : (transmit s).maxPos = s.maxPos := by unfold transmit; split <;> simp
@[simp] theorem transmit_evEnc (s : State) : (transmit s).evEnc = s.evEnc := by unfold transmit; split <;> simp
@[simp] theorem transmit_evLed (s : State) : (transmit s).evLed = s.evLed := by unfold transmit; split <;> simp
@[simp] theorem transmit_evOther (s : State) : (transmit s).evOther = s.evOther := by unfold transmit; split <;> simp
@[simp] theorem transmit_encwPh (s : State) : (transmit s).encwPh = s.encwPh := by unfold transmit; split <;> simp
@[simp] theorem transmit_buf (s : State) : (transmit s).buf = s.buf := by unfold transmit; split <;> simp
@[simp] theorem transmit_stage (s : State) : (transmit s).stage = s.stage := by unfold transmit; split <;> simp
@[simp] theorem transmit_index (s : State) : (transmit s).index = s.index := by unfold transmit; split <;> simp
@[simp] theorem transmit_result (s : State) : (transmit s).result = s.result := by unfold transmit; split <;> simp
@[simp] theorem transmit_rdata (s : State) : (transmit s).rdata = s.rdata := by unfold transmit; split <;> simp
@[simp] theorem transmit_agenda (s : State) : (transmit s).agenda = s.agenda := by unfold transmit; split <;> simp
@[simp] theorem transmit_draws (s : State) : (transmit s).draws = s.draws := by unfold transmit; split <;> simp

end Sys2Proof.Machine
end

