-- ==== Sys2Proof/Laws/Ops.lean ====
section
/-! SUPPORT. What each shared operation can do, said once: host reads and writes, agent turns, the register map, event words,
frames. -/

namespace Sys2Proof.Machine

open Sys2Proof

/-! ### Host accesses -/

theorem hostRead_next (r : RegName) (s t : State) : hostRead r s = .next t ↔ t = { s with rdata := some (readReg r s) } := by
  unfold hostRead
  simp [eq_comm]

theorem hostWrite_next (r : RegName) (v : Word) (s t : State) :
    hostWrite r v s = .next t ↔ t = { writeReg r v s with rdata := none } := by
  unfold hostWrite
  simp [eq_comm]

/-! ### Agent turns -/

/-- The arm of an agent step is that agent's turn. -/
theorem exec_toInstr (a : AgentStep) (s : State) : exec a.toInstr s = agentTurn a s := by cases a <;> rfl

/-- An agent's turn answers a next state: the step's effect when it is enabled, and else the same state. -/
theorem agentTurn_next (a : AgentStep) (s t : State) :
    agentTurn a s = .next t ↔ t = if enabled a s then agentEffect a s else s := by
  constructor
  · intro h; cases h; rfl
  · intro h; rw [h]; rfl

theorem afterTurn_eq (a : AgentStep) (s : State) : afterTurn a s = if enabled a s then agentEffect a s else s := by
  unfold afterTurn
  rw [exec_toInstr]
  rfl

theorem afterTurn_enabled (a : AgentStep) (s : State) (h : enabled a s = true) : afterTurn a s = agentEffect a s := by
  rw [afterTurn_eq, if_pos h]

theorem afterTurn_disabled (a : AgentStep) (s : State) (h : enabled a s = false) : afterTurn a s = s := by
  rw [afterTurn_eq, if_neg (by simp [h])]

/-! ### What any operation can do -/

/-- If an operation answers a next state, it returned a value and changed nothing else, or performed the write rule of a register,
or ignored a write, or was an agent's turn. -/
theorem exec_next_cases (i : Instr) (s t : State) (h : exec i s = .next t) :
    (∃ v, t = { s with rdata := some v }) ∨ (∃ r v, t = { writeReg r v s with rdata := none }) ∨
    t = { s with rdata := none } ∨ (∃ a : AgentStep, i = a.toInstr ∧ t = afterTurn a s) := by
  have rd : ∀ r, hostRead r s = .next t → ∃ v, t = { s with rdata := some v } :=
    fun r hr => ⟨_, (hostRead_next r s t).1 hr⟩
  have wr : ∀ r v, hostWrite r v s = .next t → ∃ r v, t = { writeReg r v s with rdata := none } :=
    fun r v hr => ⟨r, v, (hostWrite_next r v s t).1 hr⟩
  have ag : ∀ a : AgentStep, exec a.toInstr s = .next t → ∃ b : AgentStep, a.toInstr = b.toInstr ∧ t = afterTurn b s :=
    fun a ha => ⟨a, rfl, by rw [exec_toInstr, agentTurn_next] at ha; rw [ha, afterTurn_eq]⟩
  cases i
  case rdUnmapped => cases h; exact .inl ⟨0, rfl⟩
  case wrUnmapped => cases h; exact .inr (.inr (.inl rfl))
  case refusedCmd2to3 => cases h
  case refusedCmd4to7 => cases h
  case refusedCmd8to15 => cases h
  case refusedMisalignedOff0 => cases h
  case refusedMisalignedOff1 => cases h
  case envPads a b => exact .inr (.inr (.inr (ag (.envPads a b) h)))
  case syncA => exact .inr (.inr (.inr (ag .syncA h)))
  case syncB => exact .inr (.inr (.inr (ag .syncB h)))
  case encwConsumeRead => exact .inr (.inr (.inr (ag .encwConsumeRead h)))
  case encwConsumeClear => exact .inr (.inr (.inr (ag .encwConsumeClear h)))
  case encwUpdate => exact .inr (.inr (.inr (ag .encwUpdate h)))
  case ledwConsumeRead => exact .inr (.inr (.inr (ag .ledwConsumeRead h)))
  case ledwConsumeClear => exact .inr (.inr (.inr (ag .ledwConsumeClear h)))
  case ledwStart => exact .inr (.inr (.inr (ag .ledwStart h)))
  case ledwTx => exact .inr (.inr (.inr (ag .ledwTx h)))
  case tick => exact .inr (.inr (.inr (ag .tick h)))
  case reset a b => exact .inr (.inr (.inr (ag (.reset a b) h)))
  all_goals first | exact .inl (rd _ h) | exact .inr (.inl (wr _ _ h))

/-! ### What no register write changes -/

@[simp] theorem writeReg_cfg (r : RegName) (v : Word) (s : State) : (writeReg r v s).cfg = s.cfg := by
  cases r <;> simp [writeReg]
  split <;> rfl

@[simp] theorem writeReg_padA (r : RegName) (v : Word) (s : State) : (writeReg r v s).padA = s.padA := by
  cases r <;> simp [writeReg]
  split <;> rfl

@[simp] theorem writeReg_padB (r : RegName) (v : Word) (s : State) : (writeReg r v s).padB = s.padB := by
  cases r <;> simp [writeReg]
  split <;> rfl

@[simp] theorem writeReg_syncA (r : RegName) (v : Word) (s : State) : (writeReg r v s).syncA = s.syncA := by
  cases r <;> simp [writeReg]
  split <;> rfl

@[simp] theorem writeReg_syncB (r : RegName) (v : Word) (s : State) : (writeReg r v s).syncB = s.syncB := by
  cases r <;> simp [writeReg]
  split <;> rfl

@[simp] theorem writeReg_prevSample (r : RegName) (v : Word) (s : State) : (writeReg r v s).prevSample = s.prevSample := by
  cases r <;> simp [writeReg]
  split <;> rfl

@[simp] theorem writeReg_tLast (r : RegName) (v : Word) (s : State) : (writeReg r v s).tLast = s.tLast := by
  cases r <;> simp [writeReg]
  split <;> rfl

@[simp] theorem writeReg_tPrev (r : RegName) (v : Word) (s : State) : (writeReg r v s).tPrev = s.tPrev := by
  cases r <;> simp [writeReg]
  split <;> rfl

@[simp] theorem writeReg_time (r : RegName) (v : Word) (s : State) : (writeReg r v s).time = s.time := by
  cases r <;> simp [writeReg]
  split <;> rfl

@[simp] theorem writeReg_evOther (r : RegName) (v : Word) (s : State) : (writeReg r v s).evOther = s.evOther := by
  cases r <;> simp [writeReg]
  split <;> rfl

@[simp] theorem writeReg_encwPh (r : RegName) (v : Word) (s : State) : (writeReg r v s).encwPh = s.encwPh := by
  cases r <;> simp [writeReg]
  split <;> rfl

@[simp] theorem writeReg_ledwPh (r : RegName) (v : Word) (s : State) : (writeReg r v s).ledwPh = s.ledwPh := by
  cases r <;> simp [writeReg]
  split <;> rfl

@[simp] theorem writeReg_txFrame (r : RegName) (v : Word) (s : State) : (writeReg r v s).txFrame = s.txFrame := by
  cases r <;> simp [writeReg]
  split <;> rfl

@[simp] theorem writeReg_txPos (r : RegName) (v : Word) (s : State) : (writeReg r v s).txPos = s.txPos := by
  cases r <;> simp [writeReg]
  split <;> rfl

@[simp] theorem writeReg_dataPin (r : RegName) (v : Word) (s : State) : (writeReg r v s).dataPin = s.dataPin := by
  cases r <;> simp [writeReg]
  split <;> rfl

@[simp] theorem writeReg_clkPin (r : RegName) (v : Word) (s : State) : (writeReg r v s).clkPin = s.clkPin := by
  cases r <;> simp [writeReg]
  split <;> rfl

@[simp] theorem writeReg_trace (r : RegName) (v : Word) (s : State) : (writeReg r v s).trace = s.trace := by
  cases r <;> simp [writeReg]
  split <;> rfl

@[simp] theorem writeReg_rdata (r : RegName) (v : Word) (s : State) : (writeReg r v s).rdata = s.rdata := by
  cases r <;> simp [writeReg]
  split <;> rfl

@[simp] theorem writeReg_agenda (r : RegName) (v : Word) (s : State) : (writeReg r v s).agenda = s.agenda := by
  cases r <;> simp [writeReg]
  split <;> rfl

@[simp] theorem writeReg_draws (r : RegName) (v : Word) (s : State) : (writeReg r v s).draws = s.draws := by
  cases r <;> simp [writeReg]
  split <;> rfl

/-! ### Event words -/

theorem efMask_lt (c : Config) : (efMask c).toNat < 2 ^ c.efW := by
  unfold efMask
  rw [BitVec.toNat_ofNat]
  have := Nat.two_pow_pos c.efW
  exact lt_of_le_of_lt (Nat.mod_le _ _) (by omega)

/-- A set keeps an event word within `EF_W` bits (40_event_flags.md R121). -/
theorem or_mask_lt (c : Config) (x m : Word) (hx : x.toNat < 2 ^ c.efW) : (x ||| (m &&& efMask c)).toNat < 2 ^ c.efW := by
  rw [BitVec.toNat_or, BitVec.toNat_and]
  exact Nat.or_lt_two_pow hx (lt_of_le_of_lt Nat.and_le_right (efMask_lt c))

/-- A snapshot that is pending stays pending under a set (40_event_flags.md R134). -/
theorem and_or_of_and_eq (a b m : Word) (h : a &&& b = a) : a &&& (b ||| m) = a := by
  ext i hi
  have hb := congrArg (fun w => w.getLsbD i) h
  simp at hb ⊢
  intro h1
  exact .inl (hb h1)

/-- The bit of `UPDATE` is in every legal mask (00_scope.md R6). -/
theorem updateEvent_mask (c : Config) (h : c.legal) : updateEvent &&& efMask c = 1 := by
  have h1 := h.1
  have : ∀ w, 2 ≤ w → w ≤ 32 → (1 : Word) &&& BitVec.ofNat 32 (2 ^ w - 1) = 1 := by decide
  exact this c.efW h1.1 h1.2

/-- The bit of `EDGE_A` is in every legal mask (00_scope.md R6). -/
theorem edgeA_mask (c : Config) (h : c.legal) : edgeA &&& efMask c = 1 := updateEvent_mask c h

/-- The bit of `EDGE_B` is in every legal mask (00_scope.md R6). -/
theorem edgeB_mask (c : Config) (h : c.legal) : edgeB &&& efMask c = 2 := by
  have h1 := h.1
  have : ∀ w, 2 ≤ w → w ≤ 32 → (2 : Word) &&& BitVec.ofNat 32 (2 ^ w - 1) = 2 := by decide
  exact this c.efW h1.1 h1.2

/-! ### Numbers -/

/-- An arithmetic right shift of a number within a width stays within it (00_scope.md R8). -/
theorem asr_inWidth (n k : Nat) (v : Int) (h : inWidth n v) : inWidth n (asr v k) := by
  have h0 : (0 : Int) < 2 ^ (n - 1) := by positivity
  have hk : (0 : Int) < 2 ^ k := by positivity
  have hk1 : (1 : Int) ≤ 2 ^ k := hk
  unfold asr
  constructor
  · rw [Int.le_ediv_iff_mul_le hk]; nlinarith [h.1]
  · rw [Int.ediv_lt_iff_lt_mul hk]; nlinarith [h.2]

/-! ### Frames and the wire -/

/-- The pin events of a bit sequence, by position: data, clock high, clock low (42_led_encoder.md R212). -/
theorem flatMap_sendBit_get (bs : List Bool) : ∀ (k : Nat) (e : PinEvent), (bs.flatMap sendBit)[k]? = some e →
    (k % 3 = 0 → e.pin = .data) ∧ (k % 3 = 1 → e = ⟨.clk, true⟩) ∧ (k % 3 = 2 → e = ⟨.clk, false⟩) := by
  induction bs with
  | nil => intro k e h; simp at h
  | cons b bs ih =>
    intro k e h
    match k with
    | 0 => simp [sendBit] at h; subst h; simp
    | 1 => simp [sendBit] at h; subst h; simp
    | 2 => simp [sendBit] at h; subst h; simp
    | k + 3 =>
      simp [sendBit] at h
      have := ih k e h
      exact ⟨fun hk => this.1 (by omega), fun hk => this.2.1 (by omega), fun hk => this.2.2 (by omega)⟩

/-- The pin events of a byte sequence, by position. -/
theorem serialize_get (bs : List Byte) (k : Nat) (e : PinEvent) (h : (serialize bs)[k]? = some e) :
    (k % 3 = 0 → e.pin = .data) ∧ (k % 3 = 1 → e = ⟨.clk, true⟩) ∧ (k % 3 = 2 → e = ⟨.clk, false⟩) :=
  flatMap_sendBit_get _ k e h

theorem serialize_cons (b : Byte) (bs : List Byte) : serialize (b :: bs) = (byteBits b).flatMap sendBit ++ serialize bs := by
  simp [serialize, List.flatMap_append]

theorem serialize_append (xs ys : List Byte) : serialize (xs ++ ys) = serialize xs ++ serialize ys := by
  simp [serialize, List.flatMap_append]

theorem serialize_length (bs : List Byte) : (serialize bs).length = 24 * bs.length := by
  induction bs with
  | nil => rfl
  | cons b bs ih =>
    have h1 : ((byteBits b).flatMap sendBit).length = 24 := rfl
    rw [serialize_cons, List.length_append, List.length_cons, h1, ih]
    omega

theorem frame_length (cs : List Colour) : (frame cs).length = 4 + 4 * cs.length + endBytes cs.length := by
  simp [frame, ledBytes, List.length_flatMap]
  ring

theorem serialize_frame_length (cs : List Colour) : (serialize (frame cs)).length = frameEvents cs.length := by
  rw [serialize_length, frame_length]
  rfl

theorem frameEvents_pos (n : Nat) : 0 < frameEvents n := by
  unfold frameEvents
  omega

/-- The transmit step emits the event at its position and goes on (42_led_encoder.md R216). -/
theorem transmit_some (s : State) (e : PinEvent) (h : s.txFrame[s.txPos]? = some e) : transmit s = advanceFrame (emit e s) := by
  unfold transmit
  rw [h]

end Sys2Proof.Machine

namespace Sys2Proof

open Sys2Proof.Machine

theorem lastLevel_append (p : Pin) (es : List PinEvent) (e : PinEvent) :
    lastLevel p (es ++ [e]) = if e.pin = p then e.level else lastLevel p es := by
  simp [lastLevel]

end Sys2Proof
end

