-- ==== Sys2Proof/Laws/PerInstr.lean ====
section
/-! SUPPORT. Per-operation facts about the encoding: the word `encode` writes lies in the operation's row of
spec/opcode_table.json (its match under its mask), and an operation without a word has no row pattern. -/

namespace Sys2Proof.Laws.EncodeMatchesRow

open Sys2Proof

/-- The columns "match" and "mask" of spec/opcode_table.json. -/
def rowOf : Instr → Option (TxWord × TxWord)
  | .rdEncCtrl _ => some (0x000000000000, 0xFFFF00000000)
  | .wrEncCtrl _ => some (0x100000000000, 0xFFFF00000000)
  | .rdEncMin _ => some (0x000400000000, 0xFFFF00000000)
  | .wrEncMin _ => some (0x100400000000, 0xFFFF00000000)
  | .rdEncMax _ => some (0x000800000000, 0xFFFF00000000)
  | .wrEncMax _ => some (0x100800000000, 0xFFFF00000000)
  | .rdEncRaw _ => some (0x000C00000000, 0xFFFF00000000)
  | .wrEncRaw _ => some (0x100C00000000, 0xFFFF00000000)
  | .rdEncPos _ => some (0x001000000000, 0xFFFF00000000)
  | .wrEncPos _ => some (0x101000000000, 0xFFFF00000000)
  | .rdEncPosPrev _ => some (0x001400000000, 0xFFFF00000000)
  | .wrEncPosPrev _ => some (0x101400000000, 0xFFFF00000000)
  | .rdEncStatus _ => some (0x001800000000, 0xFFFF00000000)
  | .wrEncStatus _ => some (0x101800000000, 0xFFFF00000000)
  | .rdEncTLast _ => some (0x001C00000000, 0xFFFF00000000)
  | .wrEncTLast _ => some (0x101C00000000, 0xFFFF00000000)
  | .rdEncTPrev _ => some (0x002000000000, 0xFFFF00000000)
  | .wrEncTPrev _ => some (0x102000000000, 0xFFFF00000000)
  | .rdEncSeq _ => some (0x002400000000, 0xFFFF00000000)
  | .wrEncSeq _ => some (0x102400000000, 0xFFFF00000000)
  | .rdTime _ => some (0x002800000000, 0xFFFF00000000)
  | .wrTime _ => some (0x102800000000, 0xFFFF00000000)
  | .rdEfEnc _ => some (0x004000000000, 0xFFFF00000000)
  | .wrEfEnc _ => some (0x104000000000, 0xFFFF00000000)
  | .rdEfLed _ => some (0x004400000000, 0xFFFF00000000)
  | .wrEfLed _ => some (0x104400000000, 0xFFFF00000000)
  | .rdEfEncLast _ => some (0x004800000000, 0xFFFF00000000)
  | .wrEfEncLast _ => some (0x104800000000, 0xFFFF00000000)
  | .rdEfLedLast _ => some (0x004C00000000, 0xFFFF00000000)
  | .wrEfLedLast _ => some (0x104C00000000, 0xFFFF00000000)
  | .rdLedLen _ => some (0x008000000000, 0xFFFF00000000)
  | .wrLedLen _ => some (0x108000000000, 0xFFFF00000000)
  | .rdLedCap _ => some (0x008400000000, 0xFFFF00000000)
  | .wrLedCap _ => some (0x108400000000, 0xFFFF00000000)
  | .rdLedResult _ => some (0x008800000000, 0xFFFF00000000)
  | .wrLedResult _ => some (0x108800000000, 0xFFFF00000000)
  | .rdLedStatus _ => some (0x008C00000000, 0xFFFF00000000)
  | .wrLedStatus _ => some (0x108C00000000, 0xFFFF00000000)
  | .rdLedIndex _ => some (0x009000000000, 0xFFFF00000000)
  | .wrLedIndex _ => some (0x109000000000, 0xFFFF00000000)
  | .rdLedSetOne _ => some (0x009400000000, 0xFFFF00000000)
  | .wrLedSetOne _ => some (0x109400000000, 0xFFFF00000000)
  | .rdLedSetAll _ => some (0x009800000000, 0xFFFF00000000)
  | .wrLedSetAll _ => some (0x109800000000, 0xFFFF00000000)
  | .rdLedStage _ _ => some (0x040000000000, 0xFC0300000000)
  | .wrLedStage _ _ => some (0x140000000000, 0xFC0300000000)
  | .rdLedBuf _ _ => some (0x080000000000, 0xFC0300000000)
  | .wrLedBuf _ _ => some (0x180000000000, 0xFC0300000000)
  | .rdUnmapped _ _ => some (0x000000000000, 0xF00000000000)
  | .wrUnmapped _ _ => some (0x100000000000, 0xF00000000000)
  | .refusedCmd2to3 _ _ _ => some (0x200000000000, 0xE00000000000)
  | .refusedCmd4to7 _ _ _ => some (0x400000000000, 0xC00000000000)
  | .refusedCmd8to15 _ _ _ => some (0x800000000000, 0x800000000000)
  | .refusedMisalignedOff0 _ _ _ => some (0x000100000000, 0xE00100000000)
  | .refusedMisalignedOff1 _ _ _ => some (0x000200000000, 0xE00200000000)
  | .envPads _ _ => none
  | .syncA => none
  | .syncB => none
  | .encwConsumeRead => none
  | .encwConsumeClear => none
  | .encwUpdate => none
  | .ledwConsumeRead => none
  | .ledwConsumeClear => none
  | .ledwStart => none
  | .ledwTx => none
  | .tick => none
  | .reset _ _ => none

/-- The encoded word of a well-formed operation lies in its row of the opcode table. -/
def Statement (i : Instr) : Prop :=
  i.wf = true →
    match encode i, rowOf i with
    | some w, some row => w &&& row.2 = row.1
    | none, none => True
    | _, _ => False

theorem row_of_fields (cmd : BitVec 4) (off : Off) (data : Word) (mc : BitVec 4) (mo : Off) (c : BitVec 4) (o : Off)
    (hc : cmd &&& mc = c) (ho : off &&& mo = o) :
    txWord cmd off data &&& ((mc ++ mo) ++ 0#32) = (c ++ o) ++ 0#32 := by
  subst hc; subst ho
  have h : ((cmd ++ off) ++ data) &&& ((mc ++ mo) ++ 0#32) = ((cmd &&& mc) ++ (off &&& mo)) ++ 0#32 := by
    rw [BitVec.and_append, BitVec.and_append, BitVec.and_zero]
  exact h

theorem row_of_named (cmd : BitVec 4) (off : Off) (data : Word) :
    txWord cmd off data &&& ((0xF#4 ++ 0xFFF#12) ++ 0#32) = (cmd ++ off) ++ 0#32 := by
  have hc : cmd &&& 0xF#4 = cmd := by revert cmd; decide
  have ho : off &&& 0xFFF#12 = off := BitVec.and_allOnes
  exact row_of_fields cmd off data _ _ _ _ hc ho

theorem row_of_cmd (cmd : BitVec 4) (off : Off) (data : Word) :
    txWord cmd off data &&& ((0xF#4 ++ 0x000#12) ++ 0#32) = (cmd ++ 0x000#12) ++ 0#32 := by
  have hc : cmd &&& 0xF#4 = cmd := by revert cmd; decide
  have ho : off &&& 0x000#12 = 0x000#12 := BitVec.and_zero
  exact row_of_fields cmd off data _ _ _ _ hc ho

theorem stageOff_and (i : BitVec 8) : stageOff i &&& 0xC03 = 0x400 := by revert i; decide

theorem bufOff_and (i : BitVec 8) : bufOff i &&& 0xC03 = 0x800 := by revert i; decide

theorem cmd_and_2to3 (cmd : BitVec 4) {off : Off} {data : Word} (h : (Instr.refusedCmd2to3 cmd off data).wf = true) :
    cmd &&& 0xE = 2 := by
  simp only [Instr.wf] at h
  revert cmd; decide

theorem cmd_and_4to7 (cmd : BitVec 4) {off : Off} {data : Word} (h : (Instr.refusedCmd4to7 cmd off data).wf = true) :
    cmd &&& 0xC = 4 := by
  simp only [Instr.wf] at h
  revert cmd; decide

theorem cmd_and_8to15 (cmd : BitVec 4) {off : Off} {data : Word} (h : (Instr.refusedCmd8to15 cmd off data).wf = true) :
    cmd &&& 0x8 = 8 := by
  simp only [Instr.wf] at h
  revert cmd; decide

theorem and_one_of_bit0 (off : Off) (h : off.getLsbD 0 = true) : off &&& 0x001 = 0x001 := by
  ext k hk
  rcases k with _ | k
  · simpa using h
  · simp

theorem and_two_of_bit1 (off : Off) (h : off.getLsbD 1 = true) : off &&& 0x002 = 0x002 := by
  ext k hk
  rcases k with _ | _ | k
  · simp
  · simpa using h
  · have hk' : k < 10 := by omega
    interval_cases k <;> simp

theorem fields_and_misalignedOff0 (cmd : BitVec 4) (off : Off) (data : Word)
    (h : (Instr.refusedMisalignedOff0 cmd off data).wf = true) : cmd &&& 0xE = 0 ∧ off &&& 0x001 = 0x001 := by
  simp only [Instr.wf, Bool.and_eq_true] at h
  refine ⟨?_, and_one_of_bit0 off h.2⟩
  have h1 := h.1
  clear h
  revert cmd; decide

theorem fields_and_misalignedOff1 (cmd : BitVec 4) (off : Off) (data : Word)
    (h : (Instr.refusedMisalignedOff1 cmd off data).wf = true) : cmd &&& 0xE = 0 ∧ off &&& 0x002 = 0x002 := by
  simp only [Instr.wf, Bool.and_eq_true] at h
  refine ⟨?_, and_two_of_bit1 off h.2⟩
  have h1 := h.1.1
  clear h
  revert cmd; decide

theorem rdEncCtrl (data : Word) : Statement (.rdEncCtrl data) := fun _ => row_of_named 0 0x000 data

theorem wrEncCtrl (data : Word) : Statement (.wrEncCtrl data) := fun _ => row_of_named 1 0x000 data

theorem rdEncMin (data : Word) : Statement (.rdEncMin data) := fun _ => row_of_named 0 0x004 data

theorem wrEncMin (data : Word) : Statement (.wrEncMin data) := fun _ => row_of_named 1 0x004 data

theorem rdEncMax (data : Word) : Statement (.rdEncMax data) := fun _ => row_of_named 0 0x008 data

theorem wrEncMax (data : Word) : Statement (.wrEncMax data) := fun _ => row_of_named 1 0x008 data

theorem rdEncRaw (data : Word) : Statement (.rdEncRaw data) := fun _ => row_of_named 0 0x00C data

theorem wrEncRaw (data : Word) : Statement (.wrEncRaw data) := fun _ => row_of_named 1 0x00C data

theorem rdEncPos (data : Word) : Statement (.rdEncPos data) := fun _ => row_of_named 0 0x010 data

theorem wrEncPos (data : Word) : Statement (.wrEncPos data) := fun _ => row_of_named 1 0x010 data

theorem rdEncPosPrev (data : Word) : Statement (.rdEncPosPrev data) := fun _ => row_of_named 0 0x014 data

theorem wrEncPosPrev (data : Word) : Statement (.wrEncPosPrev data) := fun _ => row_of_named 1 0x014 data

theorem rdEncStatus (data : Word) : Statement (.rdEncStatus data) := fun _ => row_of_named 0 0x018 data

theorem wrEncStatus (data : Word) : Statement (.wrEncStatus data) := fun _ => row_of_named 1 0x018 data

theorem rdEncTLast (data : Word) : Statement (.rdEncTLast data) := fun _ => row_of_named 0 0x01C data

theorem wrEncTLast (data : Word) : Statement (.wrEncTLast data) := fun _ => row_of_named 1 0x01C data

theorem rdEncTPrev (data : Word) : Statement (.rdEncTPrev data) := fun _ => row_of_named 0 0x020 data

theorem wrEncTPrev (data : Word) : Statement (.wrEncTPrev data) := fun _ => row_of_named 1 0x020 data

theorem rdEncSeq (data : Word) : Statement (.rdEncSeq data) := fun _ => row_of_named 0 0x024 data

theorem wrEncSeq (data : Word) : Statement (.wrEncSeq data) := fun _ => row_of_named 1 0x024 data

theorem rdTime (data : Word) : Statement (.rdTime data) := fun _ => row_of_named 0 0x028 data

theorem wrTime (data : Word) : Statement (.wrTime data) := fun _ => row_of_named 1 0x028 data

theorem rdEfEnc (data : Word) : Statement (.rdEfEnc data) := fun _ => row_of_named 0 0x040 data

theorem wrEfEnc (data : Word) : Statement (.wrEfEnc data) := fun _ => row_of_named 1 0x040 data

theorem rdEfLed (data : Word) : Statement (.rdEfLed data) := fun _ => row_of_named 0 0x044 data

theorem wrEfLed (data : Word) : Statement (.wrEfLed data) := fun _ => row_of_named 1 0x044 data

theorem rdEfEncLast (data : Word) : Statement (.rdEfEncLast data) := fun _ => row_of_named 0 0x048 data

theorem wrEfEncLast (data : Word) : Statement (.wrEfEncLast data) := fun _ => row_of_named 1 0x048 data

theorem rdEfLedLast (data : Word) : Statement (.rdEfLedLast data) := fun _ => row_of_named 0 0x04C data

theorem wrEfLedLast (data : Word) : Statement (.wrEfLedLast data) := fun _ => row_of_named 1 0x04C data

theorem rdLedLen (data : Word) : Statement (.rdLedLen data) := fun _ => row_of_named 0 0x080 data

theorem wrLedLen (data : Word) : Statement (.wrLedLen data) := fun _ => row_of_named 1 0x080 data

theorem rdLedCap (data : Word) : Statement (.rdLedCap data) := fun _ => row_of_named 0 0x084 data

theorem wrLedCap (data : Word) : Statement (.wrLedCap data) := fun _ => row_of_named 1 0x084 data

theorem rdLedResult (data : Word) : Statement (.rdLedResult data) := fun _ => row_of_named 0 0x088 data

theorem wrLedResult (data : Word) : Statement (.wrLedResult data) := fun _ => row_of_named 1 0x088 data

theorem rdLedStatus (data : Word) : Statement (.rdLedStatus data) := fun _ => row_of_named 0 0x08C data

theorem wrLedStatus (data : Word) : Statement (.wrLedStatus data) := fun _ => row_of_named 1 0x08C data

theorem rdLedIndex (data : Word) : Statement (.rdLedIndex data) := fun _ => row_of_named 0 0x090 data

theorem wrLedIndex (data : Word) : Statement (.wrLedIndex data) := fun _ => row_of_named 1 0x090 data

theorem rdLedSetOne (data : Word) : Statement (.rdLedSetOne data) := fun _ => row_of_named 0 0x094 data

theorem wrLedSetOne (data : Word) : Statement (.wrLedSetOne data) := fun _ => row_of_named 1 0x094 data

theorem rdLedSetAll (data : Word) : Statement (.rdLedSetAll data) := fun _ => row_of_named 0 0x098 data

theorem wrLedSetAll (data : Word) : Statement (.wrLedSetAll data) := fun _ => row_of_named 1 0x098 data

theorem rdLedStage (i : BitVec 8) (data : Word) : Statement (.rdLedStage i data) := fun _ => (row_of_fields 0 (stageOff i) data 0xF 0xC03 0 0x400 rfl (stageOff_and i))

theorem wrLedStage (i : BitVec 8) (data : Word) : Statement (.wrLedStage i data) := fun _ => (row_of_fields 1 (stageOff i) data 0xF 0xC03 1 0x400 rfl (stageOff_and i))

theorem rdLedBuf (i : BitVec 8) (data : Word) : Statement (.rdLedBuf i data) := fun _ => (row_of_fields 0 (bufOff i) data 0xF 0xC03 0 0x800 rfl (bufOff_and i))

theorem wrLedBuf (i : BitVec 8) (data : Word) : Statement (.wrLedBuf i data) := fun _ => (row_of_fields 1 (bufOff i) data 0xF 0xC03 1 0x800 rfl (bufOff_and i))

theorem rdUnmapped (off : Off) (data : Word) : Statement (.rdUnmapped off data) := fun _ => row_of_cmd 0 off data

theorem wrUnmapped (off : Off) (data : Word) : Statement (.wrUnmapped off data) := fun _ => row_of_cmd 1 off data

theorem refusedCmd2to3 (cmd : BitVec 4) (off : Off) (data : Word) : Statement (.refusedCmd2to3 cmd off data) := fun h => (row_of_fields cmd off data 0xE 0 2 0 (cmd_and_2to3 cmd h) BitVec.and_zero)

theorem refusedCmd4to7 (cmd : BitVec 4) (off : Off) (data : Word) : Statement (.refusedCmd4to7 cmd off data) := fun h => (row_of_fields cmd off data 0xC 0 4 0 (cmd_and_4to7 cmd h) BitVec.and_zero)

theorem refusedCmd8to15 (cmd : BitVec 4) (off : Off) (data : Word) : Statement (.refusedCmd8to15 cmd off data) := fun h => (row_of_fields cmd off data 0x8 0 8 0 (cmd_and_8to15 cmd h) BitVec.and_zero)

theorem refusedMisalignedOff0 (cmd : BitVec 4) (off : Off) (data : Word) : Statement (.refusedMisalignedOff0 cmd off data) := fun h => (row_of_fields cmd off data 0xE 0x001 0 0x001
  (fields_and_misalignedOff0 cmd off data h).1 (fields_and_misalignedOff0 cmd off data h).2)

theorem refusedMisalignedOff1 (cmd : BitVec 4) (off : Off) (data : Word) : Statement (.refusedMisalignedOff1 cmd off data) := fun h => (row_of_fields cmd off data 0xE 0x002 0 0x002
  (fields_and_misalignedOff1 cmd off data h).1 (fields_and_misalignedOff1 cmd off data h).2)

theorem envPads (a : Bool) (b : Bool) : Statement (.envPads a b) := fun _ => trivial

theorem syncA : Statement .syncA := fun _ => trivial

theorem syncB : Statement .syncB := fun _ => trivial

theorem encwConsumeRead : Statement .encwConsumeRead := fun _ => trivial

theorem encwConsumeClear : Statement .encwConsumeClear := fun _ => trivial

theorem encwUpdate : Statement .encwUpdate := fun _ => trivial

theorem ledwConsumeRead : Statement .ledwConsumeRead := fun _ => trivial

theorem ledwConsumeClear : Statement .ledwConsumeClear := fun _ => trivial

theorem ledwStart : Statement .ledwStart := fun _ => trivial

theorem ledwTx : Statement .ledwTx := fun _ => trivial

theorem tick : Statement .tick := fun _ => trivial

theorem reset (a : Bool) (b : Bool) : Statement (.reset a b) := fun _ => trivial

end Sys2Proof.Laws.EncodeMatchesRow
end

