-- ==== Sys2Proof/Laws/Runs.lean ====
section
/-! SUPPORT. Runs: the runs of `step` are runs, what one move of a run does, and that every state starts a fair run. -/

namespace Sys2Proof.Machine

open Sys2Proof

/-- Taking a move touches only the agenda and the counter of drawn moves. -/
theorem takeMove_state (s : State) :
    (takeMove s).2 = { s with agenda := (takeMove s).2.agenda, draws := (takeMove s).2.draws } := by
  unfold takeMove
  split <;> rfl

/-- A run of `step` is a run in which the moves it takes are taken. -/
theorem isRun_movesOf (ss : Nat → State) (h : stepRun ss) : isRun (movesOf ss) ss := by
  intro n
  refine ⟨(takeMove (ss n)).2.agenda, (takeMove (ss n)).2.draws, ?_⟩
  rw [← takeMove_state]
  exact h n

theorem enabled_bookkeeping (a : AgentStep) (s : State) (ag : List Move) (d : Nat) :
    enabled a { s with agenda := ag, draws := d } = enabled a s := by
  cases a <;> rfl

/-- An agent's step neither reads nor writes the moves decided for later. -/
theorem agentEffect_bookkeeping (a : AgentStep) (s : State) (ag : List Move) (d : Nat) :
    agentEffect a { s with agenda := ag, draws := d } = { agentEffect a s with agenda := ag, draws := d } := by
  cases a <;> simp only [agentEffect]
  case syncA => unfold syncPadA edgeEvent; split <;> rfl
  case syncB => unfold syncPadB edgeEvent; split <;> rfl
  case encwConsumeRead => rfl
  case encwConsumeClear => rfl
  case encwUpdate =>
    unfold sampleEncoder
    dsimp only
    split <;> rfl
  case ledwConsumeRead => rfl
  case ledwConsumeClear => rfl
  case ledwStart => rfl
  case ledwTx =>
    unfold transmit
    dsimp only
    split
    · next e _ =>
      rcases e with ⟨_ | _, l⟩ <;> (unfold advanceFrame emit; dsimp only; split <;> rfl)
    · rfl
  case reset a b => rfl

theorem afterTurn_bookkeeping (a : AgentStep) (s : State) (ag : List Move) (d : Nat) :
    afterTurn a { s with agenda := ag, draws := d } = { afterTurn a s with agenda := ag, draws := d } := by
  rw [afterTurn_eq, afterTurn_eq, enabled_bookkeeping]
  split
  · exact agentEffect_bookkeeping a s ag d
  · rfl

/-- Where a run takes an agent's turn, the next state is the one after that turn, but for the moves decided for later. -/
theorem isRun_agent (ms : Nat → Move) (ss : Nat → State) (h : isRun ms ss) (n : Nat) (a : AgentStep) (ha : ms n = .agent a) :
    ∃ (ag : List Move) (d : Nat), ss (n + 1) = { afterTurn a (ss n) with agenda := ag, draws := d } := by
  obtain ⟨ag, d, he⟩ := h n
  rw [ha, show moveInstr (.agent a) = a.toInstr from rfl, exec_toInstr, agentTurn_next, ← afterTurn_eq] at he
  exact ⟨ag, d, by rw [he, afterTurn_bookkeeping]⟩

/-- The internal agents in turn, for ever. -/
def roundRobin (n : Nat) : Move := .agent (internalSteps.getD (n % internalSteps.length) .tick)

/-- The states of the run in which the internal agents move in turn. -/
def roundRobinRun (s : State) : Nat → State
  | 0 => s
  | n + 1 => afterTurn (internalSteps.getD (n % internalSteps.length) .tick) (roundRobinRun s n)

/-- Every state starts a fair run (00_scope.md R5). -/
theorem fairRun_roundRobin (s : State) : fairRun roundRobin (roundRobinRun s) := by
  constructor
  · intro n
    refine ⟨(roundRobinRun s n).agenda, (roundRobinRun s n).draws, ?_⟩
    show exec (AgentStep.toInstr _) (roundRobinRun s n) = _
    rw [exec_toInstr, agentTurn_next, ← afterTurn_eq]
    rfl
  · intro a ha n _
    obtain ⟨j, hj, rfl⟩ := List.getElem_of_mem ha
    have hlen : 0 < internalSteps.length := by decide
    refine ⟨internalSteps.length * n + j, ?_, ?_⟩
    · exact le_trans (Nat.le_mul_of_pos_left n hlen) (Nat.le_add_right _ _)
    · unfold roundRobin
      rw [Nat.mul_add_mod, Nat.mod_eq_of_lt hj, List.getD_eq_getElem?_getD, List.getElem?_eq_getElem hj]
      rfl

end Sys2Proof.Machine
end

