-- ==== Sys2Proof/Tests/Slice0.lean ====
section
/-! SUPPORT. Small checks of the model: ill-formed terms, words written out from the register map, one-step vectors of
95_test_vectors.md, and a witness for the hypotheses of every statement that has some. -/

namespace Sys2Proof.Tests

open Sys2Proof.Machine

/-! ### Well-formedness refuses ill-formed terms (spec/opcode_table.json) -/

theorem test_wf_rdUnmapped : (Instr.rdUnmapped 0x02C 0).wf = true ∧ (Instr.rdUnmapped 0x010 0).wf = false ∧
    (Instr.rdUnmapped 0x02E 0).wf = false ∧ (Instr.rdUnmapped 0x440 0).wf = false := by decide

theorem test_wf_wrUnmapped : (Instr.wrUnmapped 0xC00 0).wf = true ∧ (Instr.wrUnmapped 0x098 0).wf = false ∧
    (Instr.wrUnmapped 0x09D 0).wf = false ∧ (Instr.wrUnmapped 0xBFC 0).wf = false := by decide

theorem test_wf_refusedCmd2to3 : (Instr.refusedCmd2to3 3 0 0).wf = true ∧ (Instr.refusedCmd2to3 1 0 0).wf = false ∧
    (Instr.refusedCmd2to3 4 0 0).wf = false := by decide

theorem test_wf_refusedCmd4to7 : (Instr.refusedCmd4to7 4 0 0).wf = true ∧ (Instr.refusedCmd4to7 3 0 0).wf = false ∧
    (Instr.refusedCmd4to7 8 0 0).wf = false := by decide

theorem test_wf_refusedCmd8to15 : (Instr.refusedCmd8to15 15 0 0).wf = true ∧ (Instr.refusedCmd8to15 7 0 0).wf = false := by decide

theorem test_wf_refusedMisalignedOff0 : (Instr.refusedMisalignedOff0 1 0x003 0).wf = true ∧
    (Instr.refusedMisalignedOff0 1 0x002 0).wf = false ∧ (Instr.refusedMisalignedOff0 2 0x003 0).wf = false := by decide

theorem test_wf_refusedMisalignedOff1 : (Instr.refusedMisalignedOff1 0 0x002 0).wf = true ∧
    (Instr.refusedMisalignedOff1 0 0x003 0).wf = false ∧ (Instr.refusedMisalignedOff1 0 0x000 0).wf = false ∧
    (Instr.refusedMisalignedOff1 5 0x002 0).wf = false := by decide

/-! ### Words written out from the register map (30_encoding.md R90, R92, R100): one hex digit `CMD`, three `OFF`, eight `DATA` -/

theorem test_decode_encoder_reads :
    decode 0x000000000000 = .rdEncCtrl 0x00000000 ∧ decode 0x000400000000 = .rdEncMin 0x00000000 ∧
    decode 0x000800000000 = .rdEncMax 0x00000000 ∧ decode 0x000C00000000 = .rdEncRaw 0x00000000 ∧
    decode 0x001000000000 = .rdEncPos 0x00000000 ∧ decode 0x001400000000 = .rdEncPosPrev 0x00000000 ∧
    decode 0x001800000000 = .rdEncStatus 0x00000000 ∧ decode 0x001C00000000 = .rdEncTLast 0x00000000 ∧
    decode 0x002000000000 = .rdEncTPrev 0x00000000 ∧ decode 0x002400000000 = .rdEncSeq 0x00000000 ∧
    decode 0x002800000000 = .rdTime 0x00000000 := by decide

theorem test_decode_encoder_writes :
    decode 0x100089ABCDEF = .wrEncCtrl 0x89ABCDEF ∧ decode 0x100489ABCDEF = .wrEncMin 0x89ABCDEF ∧
    decode 0x100889ABCDEF = .wrEncMax 0x89ABCDEF ∧ decode 0x100C89ABCDEF = .wrEncRaw 0x89ABCDEF ∧
    decode 0x101089ABCDEF = .wrEncPos 0x89ABCDEF ∧ decode 0x101489ABCDEF = .wrEncPosPrev 0x89ABCDEF ∧
    decode 0x101889ABCDEF = .wrEncStatus 0x89ABCDEF ∧ decode 0x101C89ABCDEF = .wrEncTLast 0x89ABCDEF ∧
    decode 0x102089ABCDEF = .wrEncTPrev 0x89ABCDEF ∧ decode 0x102489ABCDEF = .wrEncSeq 0x89ABCDEF ∧
    decode 0x102889ABCDEF = .wrTime 0x89ABCDEF := by decide

theorem test_decode_event_and_led_reads :
    decode 0x004000000000 = .rdEfEnc 0x00000000 ∧ decode 0x004400000000 = .rdEfLed 0x00000000 ∧
    decode 0x004800000000 = .rdEfEncLast 0x00000000 ∧ decode 0x004C00000000 = .rdEfLedLast 0x00000000 ∧
    decode 0x008000000000 = .rdLedLen 0x00000000 ∧ decode 0x008400000000 = .rdLedCap 0x00000000 ∧
    decode 0x008800000000 = .rdLedResult 0x00000000 ∧ decode 0x008C00000000 = .rdLedStatus 0x00000000 ∧
    decode 0x009000000000 = .rdLedIndex 0x00000000 ∧ decode 0x009400000000 = .rdLedSetOne 0x00000000 ∧
    decode 0x009800000000 = .rdLedSetAll 0x00000000 := by decide

theorem test_decode_event_and_led_writes :
    decode 0x104089ABCDEF = .wrEfEnc 0x89ABCDEF ∧ decode 0x104489ABCDEF = .wrEfLed 0x89ABCDEF ∧
    decode 0x104889ABCDEF = .wrEfEncLast 0x89ABCDEF ∧ decode 0x104C89ABCDEF = .wrEfLedLast 0x89ABCDEF ∧
    decode 0x108089ABCDEF = .wrLedLen 0x89ABCDEF ∧ decode 0x108489ABCDEF = .wrLedCap 0x89ABCDEF ∧
    decode 0x108889ABCDEF = .wrLedResult 0x89ABCDEF ∧ decode 0x108C89ABCDEF = .wrLedStatus 0x89ABCDEF ∧
    decode 0x109089ABCDEF = .wrLedIndex 0x89ABCDEF ∧ decode 0x109489ABCDEF = .wrLedSetOne 0x89ABCDEF ∧
    decode 0x109889ABCDEF = .wrLedSetAll 0x89ABCDEF := by decide

theorem test_decode_arrays :
    decode 0x040000000000 = .rdLedStage 0 0 ∧ decode 0x07FC00000000 = .rdLedStage 255 0 ∧
    decode 0x143C1F0A141E = .wrLedStage 15 0x1F0A141E ∧ decode 0x080400000000 = .rdLedBuf 1 0 ∧
    decode 0x0BFC00000000 = .rdLedBuf 255 0 ∧ decode 0x1BFC00000007 = .wrLedBuf 255 7 := by decide

theorem test_decode_unmapped :
    decode 0x002C00000000 = .rdUnmapped 0x02C 0 ∧ decode 0x0FFC00000000 = .rdUnmapped 0xFFC 0 ∧
    decode 0x1C0000000001 = .wrUnmapped 0xC00 1 ∧ decode 0x109C00000000 = .wrUnmapped 0x09C 0 := by decide

theorem test_decode_refused :
    decode 0x200000000000 = .refusedCmd2to3 2 0x000 0 ∧ decode 0x500100000000 = .refusedCmd4to7 5 0x001 0 ∧
    decode 0xF09800000001 = .refusedCmd8to15 15 0x098 1 ∧ decode 0x000100000000 = .refusedMisalignedOff0 0 0x001 0 ∧
    decode 0x100300000000 = .refusedMisalignedOff0 1 0x003 0 ∧ decode 0x100200000009 = .refusedMisalignedOff1 1 0x002 9 := by decide

theorem test_decodeTableWord : decodeTableWord 48 0x10941F0A141E = some (.wrLedSetOne 0x1F0A141E) ∧
    decodeTableWord 48 0x1000000000000 = none := by decide

/-! ### One-step vectors of 95_test_vectors.md -/

/-- The state an operation leaves. -/
def after (i : Instr) (s : State) : State :=
  match exec i s with
  | .next t => t
  | .fault _ => s
  | .refused _ => s

/-- What an operation returns to the host. -/
def answer (i : Instr) (s : State) : Option Word := (after i s).rdata

/-- Section 3.1: `update()` with `PREV_SAMPLE = p`, synchronised levels `a, b`, `TIME = 9`, `T_LAST = 4`. -/
def atUpdate (p : BitVec 2) (a b : Bool) : State :=
  { State.reset with
    encwPh := .update, prevSample := p, padA := a, padB := b, syncA := a, syncB := b, time := 9, tLast := 4, en := true
    evEnc := ⟨0, 1, 1⟩ }

/-- Row `2, 0, 2, +1` of section 3.1. -/
theorem test_update_moves : (after .encwUpdate (atUpdate 2 false false)).raw = 1 ∧
    (after .encwUpdate (atUpdate 2 false false)).tPrev = 4 ∧ (after .encwUpdate (atUpdate 2 false false)).tLast = 9 := by decide

/-- Row `2, 1, 6, 0 (invalid)` of section 3.1: a changed sample with delta 0. -/
theorem test_update_invalid : (after .encwUpdate (atUpdate 2 true false)).raw = 0 ∧
    (after .encwUpdate (atUpdate 2 true false)).seq = 1 := by decide

/-- Section 3.2: the floor projection. -/
theorem test_projection : ([-5, -4, -1, 0, 3, 4] : List Int).map (asr · 2) = [-2, -1, -1, 0, 0, 1] ∧
    ([-5, -2, 1, 5] : List Int).map (asr · 1) = [-3, -1, 0, 2] := by decide

/-- A state with the range wrap on. -/
def clamped (lo hi raw : Int) : State := { State.reset with clampEn := true, minPos := lo, maxPos := hi, raw := raw }

/-- W1 to W6 of section 3.3. -/
theorem test_range_wrap : movedRaw (clamped 0 3 3) 1 = 0 ∧ movedRaw (clamped 0 3 0) (-1) = 3 ∧ movedRaw (clamped 0 3 2) 1 = 3 ∧
    movedRaw (clamped 0 3 9) (-1) = 0 ∧ movedRaw (clamped 5 2 0) 1 = 2 ∧ movedRaw (clamped 5 2 2) 1 = 5 ∧
    movedRaw (clamped 4 4 4) 1 = 4 := by decide

/-- W7 to W10 of section 3.3. -/
theorem test_counter_width : movedRaw (clamped 0 3 3) 0 = 3 ∧ movedRaw { State.reset with raw := 32767 } 1 = -32768 ∧
    movedRaw { State.reset with raw := -32768 } (-1) = 32767 ∧ movedRaw (clamped (-32768) 32767 32767) 1 = -32768 := by decide

/-- Section 3.4, rows 2 and 6. -/
theorem test_set_position : (after (.wrEncPos 2) { State.reset with raw := -1 }).raw = 11 ∧
    (after (.wrEncPos 0x7FFF) State.reset).ext = -1 := by decide

/-- Section 3.4, row 4: two-step mode. -/
theorem test_set_position_two_step : (after (.wrEncPos 0xFFFFFFFF) { State.reset with raw := 3, latchMode := .twoL03 }).raw = -1 := by
  decide

/-- K1 and K2 of section 3.5. -/
theorem test_ctrl : answer (.rdEncCtrl 0) (after (.wrEncCtrl 0xD) State.reset) = some 0xD ∧
    answer (.rdEncCtrl 0) (after (.wrEncCtrl 7) (after (.wrEncCtrl 0xD) State.reset)) = some 5 := by decide

/-- K4 of section 3.5. -/
theorem test_min : answer (.rdEncMin 0) (after (.wrEncMin 0xFFFFFFF6) State.reset) = some 0xFFFFFFF6 := by decide

/-- K5 of section 3.5. -/
theorem test_min_truncates : answer (.rdEncMin 0) (after (.wrEncMin 0x00018000) State.reset) = some 0xFFFF8000 := by decide

/-- K6 of section 3.5. -/
theorem test_max : answer (.rdEncMax 0) (after (.wrEncMax 0x0000FFFF) State.reset) = some 0xFFFFFFFF := by decide

/-- T1 to T3 of section 3.6. -/
theorem test_status :
    answer (.rdEncStatus 0) { State.reset with prevSample := 1, ext := 1, syncA := true, syncB := true } = some 0x35 ∧
    answer (.rdEncStatus 0) { State.reset with ext := -1 } = some 8 ∧
    answer (.rdEncStatus 0) (after (.reset true true) State.reset) = some 0x33 := by decide

/-- T5 of section 3.6. -/
theorem test_tick_wraps : (after .tick { State.reset with time := 0xFFFFFFFF }).time = 0 := by decide

/-- E8 of section 2: a peek sees bits already taken. -/
theorem test_peek : answer (.rdEfEnc 0) { State.reset with evEnc := ⟨2, 2, 0⟩, encwPh := .clear } = some 2 := by decide

/-- E10 of section 2. -/
theorem test_sync_disabled : (after .syncB { State.reset with padB := true }).evEnc.ef = 0 ∧
    (after .syncB { State.reset with padB := true }).syncB = true := by decide

/-- L1 of section 4.1. -/
theorem test_set_one : (after (.wrLedSetOne 0x1F0A141E) { State.reset with index := 15 }).buf[15]? = some ⟨31, 10, 20, 30⟩ ∧
    (after (.wrLedSetOne 0x1F0A141E) { State.reset with index := 15 }).evLed.ef = 1 := by decide

/-- L3 of section 4.1. -/
theorem test_set_one_fails : (after (.wrLedSetOne 0) { State.reset with index := 0xFFFFFFFF }).result = .outOfRange := by decide

/-- L5 of section 4.1. -/
theorem test_set_all_fails : (after (.wrLedSetAll 17) State.reset).result = .capacityExceeded := by decide

/-- L6 of section 4.1. -/
theorem test_set_all_empty : (after (.wrLedSetAll 0) State.reset).len = 0 ∧ (after (.wrLedSetAll 0) State.reset).evLed.ef = 1 := by
  decide

/-- L10 of section 4.1. -/
theorem test_stage : answer (.rdLedStage 2 0) (after (.wrLedStage 2 0xFF0A141E) State.reset) = some 0x1F0A141E := by decide

/-- L12 of section 4.1. -/
theorem test_stage_unmapped : answer (.rdLedStage 16 0) (after (.wrLedStage 16 1) State.reset) = some 0 := by decide

/-- Section 4.2, `N = 2`. -/
theorem test_frame : frame [⟨31, 10, 20, 30⟩, ⟨1, 0xAA, 0x55, 0x0F⟩] =
    [0, 0, 0, 0, 0xFF, 0x1E, 0x14, 0x0A, 0xE1, 0x0F, 0x55, 0xAA, 0xFF] := by decide

/-- Section 4.2: end bytes and pin events. -/
theorem test_frame_lengths : endBytes 0 = 0 ∧ endBytes 16 = 1 ∧ endBytes 17 = 2 ∧ frameEvents 0 = 96 ∧ frameEvents 16 = 1656 ∧
    frameEvents 17 = 1776 := by decide

/-- Section 4.3: the byte 0xE5, least significant bit first. -/
theorem test_serialize : serialize [0xE5] = ([true, false, true, false, false, true, true, true].flatMap fun b =>
    [⟨.data, b⟩, ⟨.clk, true⟩, ⟨.clk, false⟩]) := by decide

/-- B1 to B3 of section 5. -/
theorem test_refused : exec (decode 0x200000000000) State.reset = .refused .reservedCommand ∧
    exec (decode 0x000200000000) State.reset = .refused .misaligned ∧
    exec (decode 0x200200000000) State.reset = .refused .reservedCommand := ⟨rfl, rfl, rfl⟩

/-- B4 to B7 of section 5. -/
theorem test_bus : answer (decode 0x002C00000000) State.reset = some 0 ∧ answer (decode 0x0FFC00000000) State.reset = some 0 ∧
    answer (decode 0x008400000000) State.reset = some 0x10 := by decide

/-- The host's entry point runs the word it is given as the very next step. -/
theorem test_withFetchWord : step (State.reset.withFetchWord 48 0x109000000007) = .next { State.reset with index := 7 } := rfl

/-- `wr LED_STAGE[256], c` leaves the staging window and writes offset 0x800, and more than 768 colours have no expansion (R90, R104). -/
theorem test_stageWrite : stageWrite 255 7 = .move (.bus 0x17FC00000007) ∧ stageWrite 256 7 = .move (.bus 0x180000000007) ∧
    ∀ cs : List Word, 768 < cs.length → ledSetAllProgram cs = none := ⟨by decide, by decide, fun _ h => if_neg (by omega)⟩

/-- A reset leaves what `State.atReset` names (70_reset_and_hazards.md R280). -/
theorem test_resetBlock (a b : Bool) (s : State) :
    resetBlock a b s = { State.atReset s.cfg a b with rdata := s.rdata, agenda := s.agenda, draws := s.draws } := rfl

/-! ### Witnesses: states and operands that meet the hypotheses of the statements -/

/-- A state that is sending nothing and has sent nothing is sound when its decidable parts are. -/
theorem inv_of_silent (s : State) (h : s.cfg.legal ∧ PositionsOk s ∧ EventsOk s.cfg s.evEnc ∧ EventsOk s.cfg s.evLed ∧
    OtherDomainsOk s ∧ TimesOk s ∧ StripOk s ∧ WorkersOk s) (q : s.ledwPh ≠ .tx ∧ s.txFrame = [] ∧ s.txPos = 0 ∧ s.clkPin = false ∧ s.dataPin = false ∧
    s.trace = []) : Inv s := by
  obtain ⟨h1, h2, h3, h4, h5, h6, h7, h8⟩ := h
  obtain ⟨q1, q2, q3, q4, q5, q6⟩ := q
  refine ⟨h1, h2, h3, h4, h5, h6, h7, h8, ⟨fun _ => ⟨q2, q3, q4⟩, fun h => absurd h q1⟩, ⟨[], by simp, by simp [q6, q2]⟩, ?_⟩
  rw [PinsOk, q4, q5, q6]
  exact ⟨rfl, rfl⟩

/-- A small block: one LED, the narrowest widths the configuration may have, and a third event domain. -/
def small : State := State.atReset ⟨2, 4, 1, 1, true, 3⟩ false true

/-- A resting block with edge events on. -/
def resting : State := { State.reset with en := true }

theorem inv_resting : Inv resting := inv_of_silent _ (by decide) (by decide)

/-- A block with a strip of two colours of sixteen. -/
def shrunk : State := { State.reset with buf := [⟨31, 10, 20, 30⟩, ⟨1, 0xAA, 0x55, 0x0F⟩] }

/-- A block in the middle of a frame of an empty strip, at event `k`. -/
def sending (k : Nat) : State := { State.reset with ledwPh := .tx, txFrame := serialize (frame []), txPos := k, evLed := ⟨0, 1, 1⟩ }

/-- LedArrayReads: the last mapped element, a dropped entry, the first and the last unmapped element. -/
theorem witness_LedArrayReads :
    (15#8).toNat < State.reset.cfg.ledCap ∧ State.reset.stage[(15#8).toNat]? = some Colour.zero ∧
    State.reset.buf[(15#8).toNat]? = some Colour.zero ∧ shrunk.buf.length ≤ (2#8).toNat ∧
    State.reset.cfg.ledCap ≤ (16#8).toNat ∧ State.reset.cfg.ledCap ≤ (255#8).toNat := by decide

/-- BoundWrites, EnvAndTickSteps: a legal configuration, at both ends of the ranges of its widths. -/
theorem witness_legal : State.reset.cfg.legal ∧ small.cfg.legal ∧ Config.legal ⟨32, 32, 32, 256, true, 2⟩ := by decide

/-- LedIndexAndStageWrites: the last mapped element and the first unmapped one. -/
theorem witness_LedIndexAndStageWrites : (15#8).toNat < State.reset.cfg.ledCap ∧ State.reset.cfg.ledCap ≤ (16#8).toNat := by decide

/-- SetOneWrite: the last index in range and the first out of range. -/
theorem witness_SetOneWrite :
    ({ State.reset with index := 15 }).cfg.legal ∧ ({ State.reset with index := 15 }).index.toNat < State.reset.buf.length ∧
    State.reset.buf.length ≤ ({ State.reset with index := 16 }).index.toNat := by decide

/-- SetAllWrite: the largest accepted count and the first refused one. -/
theorem witness_SetAllWrite : State.reset.cfg.legal ∧ (16#32).toNat ≤ State.reset.buf.length ∧
    State.reset.buf.length < (17#32).toNat := by decide

/-- UnmappedAccesses: between the named registers, and the two ends of the top quarter of the window. -/
theorem witness_UnmappedAccesses : isUnmapped 0x02C = true ∧ isUnmapped 0xC00 = true ∧ isUnmapped 0xFFC = true := by decide

/-- RefusedTransactions: each clause at both ends of its range. -/
theorem witness_RefusedTransactions :
    2 ≤ (2#4).toNat ∧ 2 ≤ (15#4).toNat ∧ ((1#4).toNat < 2 ∧ (0x001#12).toNat % 4 ≠ 0) ∧
    ((0#4).toNat < 2 ∧ (0xFFF#12).toNat % 4 ≠ 0) ∧ ((1#4).toNat < 2 ∧ (0xFFC#12).toNat % 4 = 0) := by decide

/-- WindowByteLanes: the last byte of a named register and of the window. -/
theorem witness_WindowByteLanes : memRead 0x004 State.reset = .ok 0xFFFF8000 ∧ memRead 0xFFC State.reset = .ok 0 ∧ 3 < 4 :=
  ⟨rfl, rfl, by decide⟩

/-- DecodeEncode, StepRunsTheMove: a well-formed operation and its word. -/
theorem witness_DecodeEncode : (Instr.rdLedBuf 255 0).wf = true ∧ encode (.rdLedBuf 255 0) = some 0x0BFC00000000 := by decide

/-- SynchroniserSteps: each pad, with edge events on and off. -/
theorem witness_SynchroniserSteps :
    ({ resting with padA := true }).cfg.legal ∧ ({ resting with padA := true }).syncA ≠ true ∧
    ({ resting with padB := true }).syncB ≠ true ∧ ({ resting with padA := true }).en = true ∧
    ({ State.reset with padA := true, padB := true }).syncA ≠ true ∧ ({ State.reset with padA := true, padB := true }).syncB ≠ true ∧
    ({ State.reset with padA := true, padB := true }).en = false := by decide

/-- A block with both event words pending. -/
def pendingBoth : State := { State.reset with evEnc := ⟨3, 0, 0⟩, evLed := ⟨1, 0, 0⟩ }

/-- ConsumeSteps, SetConsumeRace: both workers idle with a pending word, and both workers in phase CLEAR. -/
theorem witness_ConsumeSteps :
    (pendingBoth.encwPh = .idle ∧ pendingBoth.evEnc.ef ≠ 0 ∧ pendingBoth.ledwPh = .idle ∧ pendingBoth.evLed.ef ≠ 0) ∧
    (after .encwConsumeRead pendingBoth).encwPh = .clear ∧ (after .ledwConsumeRead pendingBoth).ledwPh = .clear := by decide

/-- UpdateStep: an unchanged sample, a changed one without gating, one at a latch state and one at no latch state with gating. -/
theorem witness_UpdateStep :
    let gated : BitVec 2 → Bool → Bool → State := fun p a b => { atUpdate p a b with cfg := { Config.reference with latchGated := true } }
    ((atUpdate 3 true true).encwPh = .update ∧ sampleOf true true = (atUpdate 3 true true).prevSample) ∧
    ((atUpdate 2 true true).encwPh = .update ∧ sampleOf true true ≠ (atUpdate 2 true true).prevSample ∧
      (atUpdate 2 true true).cfg.latchGated = false) ∧
    (sampleOf true true ≠ (gated 2 true true).prevSample ∧ sampleOf true true ∈ latchStates (gated 2 true true).latchMode) ∧
    ((gated 2 false false).encwPh = .update ∧ sampleOf false false ≠ (gated 2 false false).prevSample ∧
      (gated 2 false false).cfg.latchGated = true ∧ sampleOf false false ∉ latchStates (gated 2 false false).latchMode) := by decide

/-- StartAndTransmitSteps: the start, the first, the last but one and the last event of a frame. -/
theorem witness_StartAndTransmitSteps :
    ({ State.reset with ledwPh := .start }).ledwPh = .start ∧ (sending 0).ledwPh = .tx ∧
    (sending 0).txFrame[(sending 0).txPos]? = some ⟨.data, false⟩ ∧ (sending 0).txPos + 1 < (sending 0).txFrame.length ∧
    (sending 94).txFrame[(sending 94).txPos]? = some ⟨.clk, true⟩ ∧ (sending 94).txPos + 1 < (sending 94).txFrame.length ∧
    (sending 95).txFrame[(sending 95).txPos]? = some ⟨.clk, false⟩ ∧ (sending 95).txPos + 1 = (sending 95).txFrame.length := by decide

/-- DisabledTurnsWait: right after reset no internal agent has anything to do. -/
theorem witness_DisabledTurnsWait :
    State.reset.syncA = State.reset.padA ∧ State.reset.syncB = State.reset.padB ∧ State.reset.evEnc.ef = 0 ∧
    State.reset.encwPh ≠ .clear ∧ State.reset.encwPh ≠ .update ∧ State.reset.evLed.ef = 0 ∧ State.reset.ledwPh ≠ .clear ∧
    State.reset.ledwPh ≠ .start ∧ State.reset.ledwPh ≠ .tx ∧ (sending 0).ledwPh ≠ .idle ∧
    (atUpdate 0 true true).encwPh ≠ .idle := by decide

/-- StepKeepsInv, WholeFrameIsSent (between frames), QuiescentMeansNoWork, InternalRunsAreFinite (settle): a sound state, and a step
from it. -/
theorem witness_StepKeepsInv : Inv { resting with agenda := [.agent .tick] } ∧ resting.ledwPh ≠ .tx ∧
    step { resting with agenda := [.agent .tick] } = .next { resting with time := 1 } :=
  ⟨inv_of_silent _ (by decide) (by decide), by decide, rfl⟩

/-- LengthNeverGrows: an operation that shrinks the strip. -/
theorem witness_LengthNeverGrows : exec (.wrLedSetAll 2) State.reset = .next (after (.wrLedSetAll 2) State.reset) ∧
    isReset (.wrLedSetAll 2) = false := ⟨rfl, rfl⟩

/-- RawWriters: each of the three kinds of operation changes the counter of some state. -/
theorem witness_RawWriters :
    (exec .encwUpdate (atUpdate 2 false false) = .next (after .encwUpdate (atUpdate 2 false false)) ∧
      (after .encwUpdate (atUpdate 2 false false)).raw ≠ (atUpdate 2 false false).raw) ∧
    (exec (.wrEncPos 3) State.reset = .next (after (.wrEncPos 3) State.reset) ∧ (after (.wrEncPos 3) State.reset).raw ≠ 0) ∧
    (exec (.reset false false) (clamped 0 3 9) = .next (after (.reset false false) (clamped 0 3 9)) ∧
      (after (.reset false false) (clamped 0 3 9)).raw ≠ 9) := ⟨⟨rfl, by decide⟩, ⟨rfl, by decide⟩, ⟨rfl, by decide⟩⟩

/-- EventBitsClearedOnlyByConsume: a consume-clear clears the top bit and the bottom bit of each word. -/
theorem witness_EventBitsClearedOnlyByConsume :
    let s : State := { State.reset with encwPh := .clear, ledwPh := .clear, evEnc := ⟨0x80000001, 1, 0⟩, evLed := ⟨0x80000001, 1, 0⟩ }
    exec .encwConsumeClear s = .next (after .encwConsumeClear s) ∧ exec .ledwConsumeClear s = .next (after .ledwConsumeClear s) ∧
    isReset .encwConsumeClear = false ∧ isReset .ledwConsumeClear = false ∧
    s.evEnc.ef.getLsbD 31 = true ∧ (after .encwConsumeClear s).evEnc.ef.getLsbD 31 = false ∧
    s.evLed.ef.getLsbD 0 = true ∧ (after .ledwConsumeClear s).evLed.ef.getLsbD 0 = false := by
  refine ⟨rfl, rfl, rfl, rfl, ?_, ?_, ?_, ?_⟩ <;> decide

/-- EqualSeqMeansOneState: two reads of `SEQ` with other operations in between. -/
theorem witness_EqualSeqMeansOneState :
    ([Instr.rdEncSeq 0, .tick] ++ [Instr.rdEncPos 0, .rdEncSeq 0]).countP raisesSeq < 2 ^ 32 ∧
    (∀ i ∈ [Instr.rdEncSeq 0, .tick] ++ [.rdEncPos 0, .rdEncSeq 0], isReset i = false) ∧
    execAll [.rdEncSeq 0, .tick] State.reset = .next (after .tick (after (.rdEncSeq 0) State.reset)) ∧
    execAll [.rdEncPos 0, .rdEncSeq 0] (after .tick (after (.rdEncSeq 0) State.reset)) =
      .next (after (.rdEncSeq 0) (after (.rdEncPos 0) (after .tick (after (.rdEncSeq 0) State.reset)))) ∧
    (after (.rdEncSeq 0) (after (.rdEncPos 0) (after .tick (after (.rdEncSeq 0) State.reset)))).seq = State.reset.seq :=
  ⟨by decide, by decide, rfl, rfl, rfl⟩

/-- Two passes of `enc_snapshot`: an update falls between the first two reads of the first, a TICK between those of the second. -/
def twoPasses : List (List (List AgentStep)) :=
  [[[], [.envPads true false, .syncA, .encwConsumeRead, .encwConsumeClear, .encwUpdate]], [[], [.tick]]]

/-- EqualSeqMeansOneState, of `enc_snapshot`: the first pass is torn and repeated, the second ends the loop. -/
theorem witness_enc_snapshot :
    (∀ gaps ∈ twoPasses, gaps.flatten.count .encwUpdate < 2 ^ 32 ∧ ∀ a ∈ gaps.flatten, isReset a.toInstr = false) ∧
    (encSnapshot twoPasses { resting with seq := 5 }).map Prod.fst = some [6, 0, 0, 17, 0, 0, 6] ∧
    encSnapshot (twoPasses.take 1) { resting with seq := 5 } = none := by
  refine ⟨by decide, rfl, rfl⟩

/-- ProjectionIsKept: an update that moves the counter, and a write of `ENC_CTRL` that keeps the shift. -/
theorem witness_ProjectionIsKept :
    (atUpdate 2 false false).cfg.latchGated = false ∧
    (atUpdate 2 false false).ext = asr (atUpdate 2 false false).raw (shiftOf (atUpdate 2 false false).latchMode) ∧
    exec .encwUpdate (atUpdate 2 false false) = .next (after .encwUpdate (atUpdate 2 false false)) ∧
    shiftOf (after .encwUpdate (atUpdate 2 false false)).latchMode = shiftOf (atUpdate 2 false false).latchMode ∧
    exec (.wrEncCtrl 3) (atUpdate 2 false false) = .next (after (.wrEncCtrl 3) (atUpdate 2 false false)) ∧
    shiftOf (after (.wrEncCtrl 3) (atUpdate 2 false false)).latchMode = shiftOf (atUpdate 2 false false).latchMode :=
  ⟨rfl, by decide, rfl, rfl, rfl, by decide⟩

/-- ReadBackAfterWrite: turns of agents that are enabled, the last staging element and the first that does not exist. -/
theorem witness_ReadBackAfterWrite :
    State.reset.cfg.legal ∧ (∀ a ∈ [AgentStep.envPads true false, .syncA, .encwConsumeRead, .tick], isReset a.toInstr = false) ∧
    ((15#8).toNat < State.reset.cfg.ledCap ∧ (15#8).toNat < State.reset.stage.length) ∧
    (State.reset.cfg.ledCap ≤ (16#8).toNat ∨ State.reset.stage.length ≤ (16#8).toNat) := by decide

/-- FrameIsASnapshot: a set one in the middle of a frame. -/
theorem witness_FrameIsASnapshot : exec (.wrLedSetOne 7) (sending 5) = .next (after (.wrLedSetOne 7) (sending 5)) ∧
    (sending 5).ledwPh = .tx ∧ Instr.wrLedSetOne 7 ≠ .ledwTx ∧ isReset (.wrLedSetOne 7) = false := ⟨rfl, rfl, by decide, rfl⟩

/-- DomainsShareNothing: an update and a transmit step. -/
theorem witness_DomainsShareNothing :
    (exec .encwUpdate (atUpdate 2 false false) = .next (after .encwUpdate (atUpdate 2 false false)) ∧
      Instr.encwUpdate ∈ ([.syncA, .syncB, .encwConsumeRead, .encwConsumeClear, .encwUpdate] : List Instr)) ∧
    (exec .ledwTx (sending 5) = .next (after .ledwTx (sending 5)) ∧
      Instr.ledwTx ∈ ([.ledwConsumeRead, .ledwConsumeClear, .ledwStart, .ledwTx] : List Instr)) :=
  ⟨⟨rfl, by decide⟩, ⟨rfl, by decide⟩⟩

/-- ConsumeCoalesces: both workers idle, three sets. -/
theorem witness_ConsumeCoalesces :
    State.reset.encwPh = .idle ∧ State.reset.ledwPh = .idle ∧
    State.reset.evEnc.ef ||| ([1, 1, 2].foldl (fun x m => x ||| m) 0 &&& BitVec.ofNat 32 (2 ^ State.reset.cfg.efW - 1)) ≠ 0 ∧
    State.reset.evLed.ef ||| ([1, 1, 2].foldl (fun x m => x ||| m) 0 &&& BitVec.ofNat 32 (2 ^ State.reset.cfg.efW - 1)) ≠ 0 := by
  decide

/-- LostEdgeHeals: an edge of each pad, a set one of the last entry and a set all of the largest count, each between the
consume-read and the consume-clear. -/
theorem witness_LostEdgeHeals :
    let s : State := { resting with encwPh := .clear, evEnc := ⟨2, 2, 0⟩, padA := true }
    let u : State := { resting with encwPh := .clear, evEnc := ⟨1, 1, 0⟩, padB := true }
    let l : State := { resting with ledwPh := .clear, evLed := ⟨1, 1, 0⟩, index := 15 }
    (s.encwPh = .clear ∧ s.syncA ≠ s.padA ∧ s.en = true) ∧ (u.encwPh = .clear ∧ u.syncB ≠ u.padB ∧ u.en = true) ∧
    (l.ledwPh = .clear ∧ l.index.toNat < l.buf.length ∧ (16#32).toNat ≤ l.buf.length) := by decide

/-- TruncIsTwosComplement: the narrowest width, and both ends of a width. -/
theorem witness_TruncIsTwosComplement : 1 ≤ 1 ∧ inWidth 1 (-1) ∧ inWidth 16 (-32768) ∧ inWidth 16 32767 := by decide

/-- A sound state about to run an update that moves the counter up, with the range wrap on. -/
def wrapping (raw : Int) : State :=
  { State.reset with
    encwPh := .update, prevSample := 2, raw := raw, clampEn := true, minPos := 0, maxPos := 3, evEnc := ⟨0, 1, 1⟩ }

/-- RangeWrapBounds: at the maximum, within the bounds, and two below the minimum. -/
theorem witness_RangeWrapBounds :
    (Inv (wrapping 3) ∧ Inv (wrapping 2) ∧ Inv (wrapping (-2))) ∧ (wrapping 3).encwPh = .update ∧ (wrapping 3).clampEn = true ∧
    (wrapping 3).minPos ≤ (wrapping 3).maxPos ∧
    dirDelta (wrapping 3).prevSample (sampleOf (wrapping 3).syncA (wrapping 3).syncB) = 1 ∧
    exec .encwUpdate (wrapping 3) = .next (after .encwUpdate (wrapping 3)) ∧
    (wrapping 3).maxPos < (wrapping 3).raw + 1 ∧ (wrapping (-2)).raw + 1 < (wrapping (-2)).minPos :=
  ⟨⟨inv_of_silent _ (by decide) (by decide), inv_of_silent _ (by decide) (by decide), inv_of_silent _ (by decide) (by decide)⟩,
    rfl, rfl, by decide, by decide, rfl, by decide, by decide⟩

/-- SetPositionKeepsPhase: row 3 of section 3.4. -/
theorem witness_SetPositionKeepsPhase :
    let s : State := { State.reset with raw := 7 }
    s.cfg.legal ∧ exec (.wrEncPos 0xFFFFFFFD) s = .next (after (.wrEncPos 0xFFFFFFFD) s) ∧
    inWidth s.cfg.rawW (sextN s.cfg.rawW 0xFFFFFFFD * 2 ^ shiftOf s.latchMode + s.raw % 2 ^ shiftOf s.latchMode) :=
  ⟨by decide, rfl, by decide⟩

/-- OnePadChangeOneUpdate, RotationMovesByFour: a resting block, and a change of each pad. -/
theorem witness_OnePadChangeOneUpdate :
    Inv resting ∧ quiescent resting ∧ resting.en = true ∧ resting.clampEn = false ∧ resting.padA = false ∧ resting.padB = false ∧
    resting.prevSample = 0 ∧ resting.prevSample = sampleOf resting.padA resting.padB ∧
    (true ≠ resting.padA ∧ false = resting.padB) ∧ (false = resting.padA ∧ true ≠ resting.padB) :=
  ⟨inv_resting, ⟨rfl, rfl, ⟨rfl, rfl⟩, rfl, rfl⟩, by decide⟩

/-- OnePadChangeOneUpdate: a schedule, with a disabled turn and a TICK in it, that ends in quiescence after a change of pad A. -/
theorem witness_OnePadChangeOneUpdate_schedule :
    let as : List AgentStep := [.tick, .syncB, .syncA, .encwConsumeRead, .encwConsumeClear, .encwUpdate]
    (∀ x ∈ as, x ∈ internalSteps ∨ x = .tick) ∧ quiescent (afterTurns as { resting with padA := true, padB := false }) :=
  ⟨by decide, rfl, rfl, ⟨rfl, rfl⟩, rfl, rfl⟩

/-- FrameLayout: the last start byte, the last colour and the last end byte of a strip of seventeen. -/
theorem witness_FrameLayout :
    3 < 4 ∧ (List.replicate 17 Colour.zero)[16]? = some Colour.zero ∧ 1 < ((List.replicate 17 Colour.zero).length + 15) / 16 := by
  decide

/-- ReceiverReadsBytesBack: the last bit of the last byte. -/
theorem witness_ReceiverReadsBytesBack : ([0x00, 0xE5] : List Byte)[1]? = some 0xE5 ∧ 7 < 8 := by decide

/-- WholeFrameIsSent: a worker about to snapshot a strip, and one about to snapshot an empty strip. -/
theorem witness_WholeFrameIsSent : ({ shrunk with ledwPh := .start }).ledwPh = .start ∧
    ({ State.reset with ledwPh := .start, buf := [] }).ledwPh = .start := by decide

/-- ShrinkIsIrreversible: the largest and the smallest shrinking count, and an index and a count that fail afterwards. -/
theorem witness_ShrinkIsIrreversible :
    Inv resting ∧ (15#32).toNat < resting.len ∧ (0#32).toNat < resting.len ∧
    exec (.wrLedSetAll 15) resting = .next (after (.wrLedSetAll 15) resting) ∧
    (15#32).toNat ≤ (15#32).toNat ∧ (15#32).toNat < (16#32).toNat := ⟨inv_resting, by decide, by decide, rfl, by decide, by decide⟩

/-- InternalRunsAreFinite: a run of one enabled synchroniser step. -/
theorem witness_InternalRunsAreFinite :
    Inv { resting with padA := true } ∧
    ∀ (before after : List AgentStep) (a : AgentStep), [AgentStep.syncA] = before ++ a :: after →
      a ∈ internalSteps ∧ enabled a (afterTurns before { resting with padA := true }) = true := by
  refine ⟨inv_of_silent _ (by decide) (by decide), ?_⟩
  intro before after a h
  rcases before with _ | ⟨b, bs⟩
  · simp only [List.nil_append, List.cons.injEq] at h
    obtain ⟨rfl, -⟩ := h
    exact ⟨by decide, by decide⟩
  · simp at h

/-- A sound block with work for both workers: a moved pad, and an event pending in each domain. -/
def busy : State := { resting with padA := true, evEnc := ⟨2, 0, 0⟩, evLed := ⟨1, 0, 0⟩ }

/-- FairRunsServeEvents, FairRunsReachQuiescence: a fair run in which the internal agents move in turn from a busy block. -/
theorem witness_FairRuns :
    fairRun roundRobin (roundRobinRun busy) ∧ noReset roundRobin 0 ∧ hostAndEnvStop roundRobin 0 ∧ Inv (roundRobinRun busy 0) ∧
    enabled .encwConsumeRead (roundRobinRun busy 0) = true ∧ enabled .ledwConsumeRead (roundRobinRun busy 0) = true ∧
    (roundRobinRun busy 0).evEnc.ef ≠ 0 ∧ (roundRobinRun busy 0).evLed.ef ≠ 0 := by
  have inner : ∀ n, internalSteps.getD (n % internalSteps.length) .tick ∈ internalSteps := by
    intro n
    have h : n % internalSteps.length < internalSteps.length := Nat.mod_lt n (by decide)
    rw [List.getD_eq_getElem?_getD, List.getElem?_eq_getElem h]
    exact List.getElem_mem h
  refine ⟨fairRun_roundRobin busy, ?_, fun m _ => .inr ⟨_, inner m, rfl⟩, inv_of_silent _ (by decide) (by decide), by decide⟩
  intro m _ a b h
  have hm := inner m
  rw [Move.agent.inj h] at hm
  exact absurd hm (by cases a <;> cases b <;> decide)

end Sys2Proof.Tests
end

/-!
SUPPORT. The scope family: the truncation of R8, what keeps a sound state sound, the round trip of the decoder that `step` rests on,
and what the weak fairness of R5 gives along a run.
-/

namespace Sys2Proof

open Sys2Proof.Machine

/-! ### Two's-complement truncation (00_scope.md R8) -/

/-- `trunc_N` is the library's balanced remainder by `2^N`, whose bounds and congruence are known. -/
theorem truncN_eq_bmod (n : Nat) (v : Int) (hn : 1 ≤ n) : truncN n v = v.bmod (2 ^ n) := by
  obtain ⟨k, rfl⟩ := Nat.exists_eq_add_of_le' hn
  have half : (((2 ^ (k + 1) : Nat) : Int) + 1) / 2 = 2 ^ k := by
    push_cast
    rw [pow_succ]
    omega
  rw [Int.bmod_def, half, truncN]
  push_cast
  rfl

theorem truncN_inWidth (n : Nat) (v : Int) (hn : 1 ≤ n) : inWidth n (truncN n v) := by
  rw [truncN_eq_bmod n v hn]
  obtain ⟨k, rfl⟩ := Nat.exists_eq_add_of_le' hn
  have lower := Int.le_bmod (x := v) (Nat.two_pow_pos (k + 1))
  have upper := Int.bmod_lt (x := v) (Nat.two_pow_pos (k + 1))
  have double : ((2 ^ (k + 1) : Nat) : Int) = 2 ^ k * 2 := by
    push_cast
    exact pow_succ 2 k
  rw [double] at lower upper
  unfold inWidth
  rw [Nat.add_sub_cancel]
  omega

theorem truncN_congr (n : Nat) (v : Int) (hn : 1 ≤ n) : (truncN n v - v) % 2 ^ n = 0 := by
  rw [truncN_eq_bmod n v hn]
  have divides : ((2 ^ n : Nat) : Int) ∣ v.bmod (2 ^ n) - v := Int.dvd_bmod_sub_self
  push_cast at divides
  exact Int.emod_eq_zero_of_dvd divides

theorem truncN_of_inWidth (n : Nat) (v : Int) (hn : 1 ≤ n) (hv : inWidth n v) : truncN n v = v := by
  rw [truncN_eq_bmod n v hn]
  obtain ⟨k, rfl⟩ := Nat.exists_eq_add_of_le' hn
  obtain ⟨lower, upper⟩ := hv
  rw [Nat.add_sub_cancel] at lower upper
  apply Int.bmod_eq_of_le_mul_two <;> push_cast [pow_succ] <;> omega

/-- Settles O48: the three facts about the balanced remainder. -/
theorem truncIsTwosComplement : Obligations.TruncIsTwosComplement :=
  fun n v hn => ⟨truncN_inWidth n v hn, truncN_congr n v hn, truncN_of_inWidth n v hn⟩

/-! ### The events of a transmit step (42_led_encoder.md R216, R217) -/

/-- `emit` drives the pin of its event and no other. -/
theorem emit_eq (e : PinEvent) (s : State) :
    emit e s = { s with
      dataPin := if e.pin = .data then e.level else s.dataPin
      clkPin := if e.pin = .clk then e.level else s.clkPin
      trace := s.trace ++ [e] } := by
  obtain ⟨_ | _, level⟩ := e <;> rfl

/-- A transmit step before the last event of the frame. -/
theorem transmit_next (s : State) (e : PinEvent) (he : s.txFrame[s.txPos]? = some e) (more : s.txPos + 1 ≠ s.txFrame.length) :
    transmit s = { s with
      txPos := s.txPos + 1
      dataPin := if e.pin = .data then e.level else s.dataPin
      clkPin := if e.pin = .clk then e.level else s.clkPin
      trace := s.trace ++ [e] } := by
  rw [transmit_some s e he, emit_eq, advanceFrame, if_neg more]

/-- The transmit step of the last event of the frame. -/
theorem transmit_last (s : State) (e : PinEvent) (he : s.txFrame[s.txPos]? = some e) (last : s.txPos + 1 = s.txFrame.length) :
    transmit s = { s with
      ledwPh := .idle
      txFrame := []
      txPos := 0
      dataPin := if e.pin = .data then e.level else s.dataPin
      clkPin := if e.pin = .clk then e.level else s.clkPin
      trace := s.trace ++ [e] } := by
  rw [transmit_some s e he, emit_eq, advanceFrame, if_pos last]

/-- The clock is high exactly after the second of the three events of a bit (42_led_encoder.md R212). -/
theorem clk_after_event (bytes : List Byte) (k : Nat) (e : PinEvent) (clk : Bool) (he : (serialize bytes)[k]? = some e)
    (before : clk = true ↔ k % 3 = 2) :
    (if e.pin = .clk then e.level else clk) = true ↔ (k + 1) % 3 = 2 := by
  obtain ⟨isData, isRise, isFall⟩ := serialize_get bytes k e he
  obtain h0 | h1 | h2 : k % 3 = 0 ∨ k % 3 = 1 ∨ k % 3 = 2 := by omega
  · rw [isData h0, if_neg (by decide), before]
    omega
  · rw [isRise h1, if_pos rfl]
    exact iff_of_true rfl (by omega)
  · rw [isFall h2, if_pos rfl]
    exact iff_of_false (by decide) (by omega)

/-! ### Every step keeps a sound state sound -/

theorem Inv.legal {s : State} (h : Inv s) : s.cfg.legal := h.1

theorem Inv.positions {s : State} (h : Inv s) : PositionsOk s := h.2.1

theorem Inv.strip {s : State} (h : Inv s) : StripOk s := by
  obtain ⟨-, -, -, -, -, -, strip, -⟩ := h
  exact strip

theorem Inv.frame {s : State} (h : Inv s) : FrameOk s := by
  obtain ⟨-, -, -, -, -, -, -, -, frame, -⟩ := h
  exact frame

theorem rawW_pos (c : Config) (h : c.legal) : 1 ≤ c.rawW := by
  obtain ⟨-, ⟨lower, -⟩, -⟩ := h
  omega

/-- Zero is a number of every width. -/
theorem zero_inWidth (n : Nat) : inWidth n 0 := by
  have : (0 : Int) < 2 ^ (n - 1) := by positivity
  exact ⟨by omega, this⟩

theorem inv_setEvents_enc (m : Word) (s : State) (h : Inv s) : Inv (setEvents .enc m s) := by
  obtain ⟨cfg, pos, enc, led, other, times, strip, ⟨encClear, encUpdate, ledPhases⟩, transmitter⟩ := h
  exact ⟨cfg, pos, ⟨or_mask_lt _ _ _ enc.1, enc.2⟩, led, other, times, strip,
    ⟨fun ph => ⟨(encClear ph).1, and_or_of_and_eq _ _ _ (encClear ph).2⟩, encUpdate, ledPhases⟩, transmitter⟩

theorem inv_setEvents_led (m : Word) (s : State) (h : Inv s) : Inv (setEvents .led m s) := by
  obtain ⟨cfg, pos, enc, led, other, times, strip, ⟨encClear, encUpdate, ledClear, ledFrame⟩, transmitter⟩ := h
  exact ⟨cfg, pos, enc, ⟨or_mask_lt _ _ _ led.1, led.2⟩, other, times, strip,
    ⟨encClear, encUpdate, fun ph => ⟨(ledClear ph).1, and_or_of_and_eq _ _ _ (ledClear ph).2⟩, ledFrame⟩, transmitter⟩

theorem inv_edgeEvent (m : Word) (s : State) (h : Inv s) : Inv (edgeEvent m s) := by
  unfold edgeEvent
  split
  · exact inv_setEvents_enc m s h
  · exact h

/-- Positions within `RAW_W` bits may replace the positions of a sound state. -/
theorem inv_of_positions (s : State) (raw ext extPrev minPos maxPos : Int) (h : Inv s)
    (hp : PositionsOk { s with raw := raw, ext := ext, extPrev := extPrev, minPos := minPos, maxPos := maxPos }) :
    Inv { s with raw := raw, ext := ext, extPrev := extPrev, minPos := minPos, maxPos := maxPos } := by
  obtain ⟨cfg, -, rest⟩ := h
  exact ⟨cfg, hp, rest⟩

/-- A strip of at most `LED_CAP` colours may replace the strip of a sound state. -/
theorem inv_of_buf (s : State) (buf : List Colour) (r : CmdResult) (h : Inv s) (hb : buf.length ≤ s.cfg.ledCap) :
    Inv { s with buf := buf, result := r } := by
  obtain ⟨cfg, pos, enc, led, other, times, strip, rest⟩ := h
  exact ⟨cfg, pos, enc, led, other, times, ⟨hb, strip.2⟩, rest⟩

theorem inv_setPosition (p : Int) (s : State) (h : Inv s) : Inv (setPosition p s) := by
  obtain ⟨-, -, -, hmin, hmax⟩ := h.positions
  have hraw : inWidth s.cfg.rawW (reseededRaw s p) := truncN_inWidth _ _ (rawW_pos _ h.legal)
  have hext := asr_inWidth _ (shiftOf s.latchMode) _ hraw
  exact inv_of_positions s _ _ _ s.minPos s.maxPos h ⟨hraw, hext, hext, hmin, hmax⟩

theorem inv_setOne (c : Colour) (s : State) (h : Inv s) : Inv (setOne c s) := by
  unfold setOne
  split
  · obtain ⟨hlen, -⟩ := h.strip
    exact inv_setEvents_led _ _ (inv_of_buf s _ _ h (by rwa [List.length_set]))
  · exact h

theorem inv_setAll (k : Word) (s : State) (h : Inv s) : Inv (setAll k s) := by
  unfold setAll
  split
  · exact h
  · obtain ⟨-, hstage⟩ := h.strip
    exact inv_setEvents_led _ _ (inv_of_buf s _ _ h (hstage ▸ List.length_take_le' _ _))

theorem inv_writeReg (r : RegName) (v : Word) (s : State) (h : Inv s) : Inv (writeReg r v s) := by
  obtain ⟨hraw, hext, hprev, hmin, hmax⟩ := h.positions
  have bound : inWidth s.cfg.rawW (sextN s.cfg.rawW v) := truncN_inWidth _ _ (rawW_pos _ h.legal)
  cases r
  case encMin => exact inv_of_positions s _ _ _ _ _ h ⟨hraw, hext, hprev, bound, hmax⟩
  case encMax => exact inv_of_positions s _ _ _ _ _ h ⟨hraw, hext, hprev, hmin, bound⟩
  case encPos => exact inv_setPosition _ s h
  case efEnc => exact inv_setEvents_enc v s h
  case efLed => exact inv_setEvents_led v s h
  case ledSetOne => exact inv_setOne _ s h
  case ledSetAll => exact inv_setAll v s h
  case ledStage i =>
    simp only [writeReg]
    split
    · obtain ⟨cfg, pos, enc, led, other, times, strip, rest⟩ := h
      exact ⟨cfg, pos, enc, led, other, times, ⟨strip.1, by simpa using strip.2⟩, rest⟩
    · exact h
  all_goals exact h

theorem inv_consumeRead_enc (s : State) (h : Inv s) (pending : s.evEnc.ef ≠ 0) :
    Inv { snapEvents .enc s with encwPh := .clear } := by
  obtain ⟨cfg, pos, enc, led, other, times, strip, ⟨-, -, ledPhases⟩, transmitter⟩ := h
  exact ⟨cfg, pos, ⟨enc.1, enc.1, enc.2.2⟩, led, other, times, strip,
    ⟨fun _ => ⟨pending, BitVec.and_self⟩, nofun, ledPhases⟩, transmitter⟩

theorem inv_consumeClear_enc (s : State) (h : Inv s) (ph : s.encwPh = .clear) :
    Inv { clearEvents .enc s with encwPh := .update } := by
  obtain ⟨cfg, pos, enc, led, other, times, strip, ⟨encClear, -, ledPhases⟩, transmitter⟩ := h
  exact ⟨cfg, pos, ⟨Nat.two_pow_pos _, enc.2.1, enc.2.1⟩, led, other, times, strip,
    ⟨nofun, fun _ => (encClear ph).1, ledPhases⟩, transmitter⟩

theorem inv_sampleEncoder (s : State) (h : Inv s) : Inv (sampleEncoder s) := by
  simp only [sampleEncoder]
  split
  · exact h
  · obtain ⟨cfg, ⟨-, hext, -, hbounds⟩, enc, led, other, ⟨htime, hlast, -⟩, rest⟩ := h
    have hraw : ∀ d, inWidth s.cfg.rawW (movedRaw s d) := fun d => truncN_inWidth _ _ (rawW_pos _ cfg)
    refine ⟨cfg, ⟨hraw _, ?_, hext, hbounds⟩, enc, led, other, ⟨htime, htime, hlast⟩, rest⟩
    simp only [takeSample]
    split
    · exact asr_inWidth _ _ _ (hraw _)
    · exact hext

theorem inv_update (s : State) (h : Inv s) : Inv { sampleEncoder s with encwPh := .idle } := by
  obtain ⟨cfg, pos, enc, led, other, times, strip, ⟨-, -, ledPhases⟩, transmitter⟩ := inv_sampleEncoder s h
  exact ⟨cfg, pos, enc, led, other, times, strip, ⟨nofun, nofun, ledPhases⟩, transmitter⟩

theorem inv_consumeRead_led (s : State) (h : Inv s) (ph : s.ledwPh = .idle) (pending : s.evLed.ef ≠ 0) :
    Inv { snapEvents .led s with ledwPh := .clear } := by
  obtain ⟨cfg, pos, enc, led, other, times, strip, ⟨encClear, encUpdate, -, -⟩, ⟨silent, -⟩, wire⟩ := h
  exact ⟨cfg, pos, enc, ⟨led.1, led.1, led.2.2⟩, other, times, strip,
    ⟨encClear, encUpdate, fun _ => ⟨pending, BitVec.and_self⟩, by simp⟩,
    ⟨fun _ => silent (by simp [ph]), nofun⟩, wire⟩

theorem inv_consumeClear_led (s : State) (h : Inv s) (ph : s.ledwPh = .clear) :
    Inv { clearEvents .led s with ledwPh := .start } := by
  obtain ⟨cfg, pos, enc, led, other, times, strip, ⟨encClear, encUpdate, ledClear, -⟩, ⟨silent, -⟩, wire⟩ := h
  exact ⟨cfg, pos, enc, ⟨Nat.two_pow_pos _, led.2.1, led.2.1⟩, other, times, strip,
    ⟨encClear, encUpdate, nofun, fun _ => (ledClear ph).1⟩,
    ⟨fun _ => silent (by simp [ph]), nofun⟩, wire⟩

theorem inv_startFrame (s : State) (h : Inv s) (ph : s.ledwPh = .start) : Inv (startFrame s) := by
  obtain ⟨cfg, pos, enc, led, other, times, strip, ⟨encClear, encUpdate, -, ledFrame⟩, ⟨silent, -⟩, ⟨fs, hfs, htr⟩,
    pins⟩ := h
  obtain ⟨noFrame, noPos, low⟩ := silent (by simp [ph])
  have nonempty : 0 < (serialize (frame s.buf)).length := by
    rw [serialize_frame_length]
    exact frameEvents_pos _
  refine ⟨cfg, pos, enc, led, other, times, strip, ⟨encClear, encUpdate, nofun, fun _ => ledFrame (.inl ph)⟩,
    ⟨fun ph => absurd rfl ph, fun _ => ⟨nonempty, by simp [low], s.buf, strip.1, rfl⟩⟩, ⟨fs, hfs, ?_⟩, pins⟩
  simpa [noFrame] using htr

theorem inv_transmit (s : State) (h : Inv s) (ph : s.ledwPh = .tx) : Inv (transmit s) := by
  obtain ⟨cfg, pos, enc, led, other, times, strip, ⟨encClear, encUpdate, -, ledFrame⟩, ⟨-, sending⟩,
    ⟨fs, hfs, htr⟩, hdata, hclk⟩ := h
  obtain ⟨inFrame, clk, cs, hcs, hframe⟩ := sending ph
  have he : s.txFrame[s.txPos]? = some s.txFrame[s.txPos] := List.getElem?_eq_getElem inFrame
  generalize s.txFrame[s.txPos] = e at he
  have clk' := clk_after_event (frame cs) s.txPos e s.clkPin (hframe ▸ he) clk
  have sent : s.trace ++ [e] = fs.flatMap (fun cs => serialize (frame cs)) ++ s.txFrame.take (s.txPos + 1) := by
    rw [htr, List.take_add_one, he, List.append_assoc, Option.toList_some]
  have pins : (if e.pin = .data then e.level else s.dataPin) = lastLevel .data (s.trace ++ [e]) ∧
      (if e.pin = .clk then e.level else s.clkPin) = lastLevel .clk (s.trace ++ [e]) := by
    rw [lastLevel_append, lastLevel_append, hdata, hclk]
    exact ⟨rfl, rfl⟩
  by_cases last : s.txPos + 1 = s.txFrame.length
  · have whole : (s.txPos + 1) % 3 ≠ 2 := by
      rw [last, hframe, serialize_length]
      omega
    rw [transmit_last s e he last]
    refine ⟨cfg, pos, enc, led, other, times, strip, ⟨encClear, encUpdate, nofun, by simp⟩,
      ⟨fun _ => ⟨rfl, rfl, eq_false_of_ne_true fun high => whole (clk'.1 high)⟩, nofun⟩,
      ⟨fs ++ [cs], ?_, ?_⟩, pins⟩
    · simpa [or_imp, forall_and] using ⟨hfs, hcs⟩
    · simp [sent, last, hframe]
  · rw [transmit_next s e he last]
    exact ⟨cfg, pos, enc, led, other, times, strip, ⟨encClear, encUpdate, fun p => (by simp [ph] at p), ledFrame⟩,
      ⟨fun p => absurd ph p, fun _ => ⟨by show s.txPos + 1 < s.txFrame.length; omega, clk', cs, hcs, hframe⟩⟩,
      ⟨fs, hfs, sent⟩, pins⟩

theorem inv_tick (s : State) (h : Inv s) : Inv { s with time := timeWord s.cfg (s.time.toNat + 1) } := by
  obtain ⟨cfg, pos, enc, led, other, times, rest⟩ := h
  refine ⟨cfg, pos, enc, led, other, ⟨?_, times.2⟩, rest⟩
  rw [timeWord, BitVec.toNat_ofNat]
  exact lt_of_le_of_lt (Nat.mod_le _ _) (Nat.mod_lt _ (Nat.two_pow_pos _))

/-- A reset leaves a sound state whatever the state before it, as long as the configuration is legal (70_reset_and_hazards.md
R280). -/
theorem inv_resetBlock (a b : Bool) (s : State) (cfg : s.cfg.legal) : Inv (resetBlock a b s) := by
  have half : (0 : Int) < 2 ^ (s.cfg.rawW - 1) := by positivity
  have zero := zero_inWidth s.cfg.rawW
  have noEvents : EventsOk s.cfg ⟨0, 0, 0⟩ := ⟨Nat.two_pow_pos _, Nat.two_pow_pos _, Nat.two_pow_pos _⟩
  refine ⟨cfg, ⟨zero, zero, zero, ⟨le_refl _, ?_⟩, ⟨?_, ?_⟩⟩, noEvents, noEvents, ⟨List.length_replicate, ?_⟩,
    ⟨Nat.two_pow_pos _, Nat.two_pow_pos _, Nat.two_pow_pos _⟩, ⟨List.length_replicate.le, List.length_replicate⟩,
    ⟨nofun, nofun, nofun, by simp [resetBlock]⟩,
    ⟨fun _ => ⟨rfl, rfl, rfl⟩, nofun⟩, ⟨[], by simp, rfl⟩, rfl, rfl⟩
  · show -(2 ^ (s.cfg.rawW - 1) : Int) < 2 ^ (s.cfg.rawW - 1)
    omega
  · show -(2 ^ (s.cfg.rawW - 1) : Int) ≤ 2 ^ (s.cfg.rawW - 1) - 1
    omega
  · show (2 ^ (s.cfg.rawW - 1) - 1 : Int) < 2 ^ (s.cfg.rawW - 1)
    omega
  · intro e he
    rw [List.eq_of_mem_replicate he]
    exact noEvents

theorem inv_agentEffect (a : AgentStep) (s : State) (h : Inv s) (en : enabled a s = true) : Inv (agentEffect a s) := by
  cases a
  case envPads a b => exact h
  case syncA => exact inv_edgeEvent edgeA { s with syncA := s.padA } h
  case syncB => exact inv_edgeEvent edgeB { s with syncB := s.padB } h
  case encwConsumeRead =>
    have pending : s.evEnc.ef ≠ 0 := by simp_all [enabled]
    exact inv_consumeRead_enc s h pending
  case encwConsumeClear => exact inv_consumeClear_enc s h (by simpa [enabled] using en)
  case encwUpdate => exact inv_update s h
  case ledwConsumeRead =>
    obtain ⟨ph, pending⟩ : s.ledwPh = .idle ∧ s.evLed.ef ≠ 0 := by simpa [enabled] using en
    exact inv_consumeRead_led s h ph pending
  case ledwConsumeClear => exact inv_consumeClear_led s h (by simpa [enabled] using en)
  case ledwStart => exact inv_startFrame s h (by simpa [enabled] using en)
  case ledwTx => exact inv_transmit s h (by simpa [enabled] using en)
  case tick => exact inv_tick s h
  case reset a b => exact inv_resetBlock a b s h.legal

theorem inv_afterTurn (a : AgentStep) (s : State) (h : Inv s) : Inv (afterTurn a s) := by
  rw [afterTurn_eq]
  split
  · next en => exact inv_agentEffect a s h en
  · exact h

/-- Every operation keeps a sound state sound; the answer to the host is no part of soundness. -/
theorem inv_exec (i : Instr) (s t : State) (h : Inv s) (hx : exec i s = .next t) : Inv t := by
  obtain ⟨v, rfl⟩ | ⟨r, v, rfl⟩ | rfl | ⟨a, -, rfl⟩ := exec_next_cases i s t hx
  · exact h
  · exact inv_writeReg r v s h
  · exact h
  · exact inv_afterTurn a s h

/-- Settles O35: the move taken off the agenda is no part of soundness, and its operation keeps it. -/
theorem stepKeepsInv : Obligations.StepKeepsInv := by
  intro s t h hstep
  have taken : Inv (takeMove s).2 := by
    rw [takeMove_state]
    exact h
  exact inv_exec _ _ t taken hstep

end Sys2Proof

namespace Sys2Proof

open Sys2Proof.Machine

/-! ### A step runs the word it is given (00_scope.md R5, R69) -/

/-- A word whose command is 0 or 1 and whose offset is aligned decodes by its direction and its offset alone. -/
theorem decodeFields_named (off : Off) (d : Word) (hal : aligned off = true) (hwin : inWindow off = false) :
    decodeFields 0 off d = decodeNamedRead off d ∧ decodeFields 1 off d = decodeNamedWrite off d := by
  obtain ⟨notStage, notBuf⟩ : off.extractLsb' 10 2 ≠ 1 ∧ off.extractLsb' 10 2 ≠ 2 := by simpa [inWindow] using hwin
  rw [decodeFields_read off d hal, decodeFields_write off d hal, decodeRead, decodeWrite, if_neg notStage, if_neg notBuf,
    if_neg notStage, if_neg notBuf]
  exact ⟨rfl, rfl⟩

/-- An offset that no row names decodes to the unmapped rows (20_memory.md R62). -/
theorem decodeFields_unmapped (off : Off) (d : Word) (h : isUnmapped off = true) :
    decodeFields 0 off d = .rdUnmapped off d ∧ decodeFields 1 off d = .wrUnmapped off d := by
  obtain ⟨⟨hal, hwin⟩, hnamed⟩ : (aligned off = true ∧ inWindow off = false) ∧ namedOffsets.contains off = false := by
    simpa only [isUnmapped, Bool.and_eq_true, Bool.not_eq_true'] using h
  rw [(decodeFields_named off d hal hwin).1, (decodeFields_named off d hal hwin).2]
  exact ⟨decodeNamedRead_unlisted off d hnamed, decodeNamedWrite_unlisted off d hnamed⟩

/-- The offset of a staging element decodes to its element (30_encoding.md R100). -/
theorem decodeFields_stageOff (i : BitVec 8) (d : Word) :
    decodeFields 0 (stageOff i) d = .rdLedStage i d ∧ decodeFields 1 (stageOff i) d = .wrLedStage i d := by
  obtain ⟨window, hal, index⟩ := stageOff_fields i
  rw [decodeFields_read _ d hal, decodeFields_write _ d hal, decodeRead, decodeWrite, if_pos window, if_pos window, index]
  exact ⟨rfl, rfl⟩

/-- The offset of a buffer element decodes to its element (30_encoding.md R100). -/
theorem decodeFields_bufOff (i : BitVec 8) (d : Word) :
    decodeFields 0 (bufOff i) d = .rdLedBuf i d ∧ decodeFields 1 (bufOff i) d = .wrLedBuf i d := by
  obtain ⟨window, hal, index⟩ := bufOff_fields i
  rw [decodeFields_read _ d hal, decodeFields_write _ d hal, decodeRead, decodeWrite, window, index]
  exact ⟨rfl, rfl⟩

/-- A command of 0 or 1 is not a reserved one. -/
theorem cmd_lt_two (cmd : BitVec 4) (h : cmd = 0 ∨ cmd = 1) : ¬ 8 ≤ cmd.toNat ∧ ¬ 4 ≤ cmd.toNat ∧ ¬ 2 ≤ cmd.toNat := by
  obtain rfl | rfl := h <;> decide

/-- Decoding the word of a well-formed operation gives the operation back. -/
theorem decode_encode (i : Instr) (w : TxWord) (hwf : i.wf = true) (henc : encode i = some w) : decode w = i := by
  cases i
  case rdLedStage i d => cases henc; rw [decode_txWord, (decodeFields_stageOff i d).1]
  case wrLedStage i d => cases henc; rw [decode_txWord, (decodeFields_stageOff i d).2]
  case rdLedBuf i d => cases henc; rw [decode_txWord, (decodeFields_bufOff i d).1]
  case wrLedBuf i d => cases henc; rw [decode_txWord, (decodeFields_bufOff i d).2]
  case rdUnmapped off d => cases henc; rw [decode_txWord, (decodeFields_unmapped off d hwf).1]
  case wrUnmapped off d => cases henc; rw [decode_txWord, (decodeFields_unmapped off d hwf).2]
  case refusedCmd8to15 cmd off d =>
    cases henc
    rw [decode_txWord, decodeFields, if_pos (by simpa [Instr.wf] using hwf)]
  case refusedCmd4to7 cmd off d =>
    cases henc
    obtain ⟨lower, upper⟩ : 4 ≤ cmd.toNat ∧ cmd.toNat < 8 := by simpa [Instr.wf] using hwf
    rw [decode_txWord, decodeFields, if_neg (by omega), if_pos lower]
  case refusedCmd2to3 cmd off d =>
    cases henc
    obtain rfl | rfl : cmd = 2 ∨ cmd = 3 := by simpa [Instr.wf] using hwf
    all_goals rw [decode_txWord]; rfl
  case refusedMisalignedOff0 cmd off d =>
    cases henc
    obtain ⟨hcmd, bit0⟩ : (cmd = 0 ∨ cmd = 1) ∧ off.getLsbD 0 = true := by
      simpa only [Instr.wf, Bool.and_eq_true, Bool.or_eq_true, beq_iff_eq] using hwf
    obtain ⟨lt8, lt4, lt2⟩ := cmd_lt_two cmd hcmd
    rw [decode_txWord, decodeFields, if_neg lt8, if_neg lt4, if_neg lt2, if_pos bit0]
  case refusedMisalignedOff1 cmd off d =>
    cases henc
    obtain ⟨⟨hcmd, bit0⟩, bit1⟩ : ((cmd = 0 ∨ cmd = 1) ∧ off.getLsbD 0 = false) ∧ off.getLsbD 1 = true := by
      simpa only [Instr.wf, Bool.and_eq_true, Bool.or_eq_true, beq_iff_eq, Bool.not_eq_true'] using hwf
    obtain ⟨lt8, lt4, lt2⟩ := cmd_lt_two cmd hcmd
    rw [decode_txWord, decodeFields, if_neg lt8, if_neg lt4, if_neg lt2, bit0, if_neg (by decide), if_pos bit1]
  -- What is left are the agent steps, which have no word, and the named registers, whose offsets are numerals.
  all_goals cases henc
  all_goals
    rw [decode_txWord]
    rfl

/-- No transaction word decodes to an agent step (30_encoding.md R101). -/
theorem decode_not_agentStep (w : TxWord) (a : AgentStep) : decode w ≠ a.toInstr := by
  have notAgent : (decode w).isAgentStep = false := by
    unfold decode decodeFields decodeRead decodeWrite decodeNamedRead decodeNamedWrite
    repeat' split
    all_goals rfl
  have agent : a.toInstr.isAgentStep = true := by cases a <;> rfl
  intro h
  rw [h, agent] at notAgent
  exact absurd notAgent (by decide)

/-- Settles O24: the decoder gives the encoded operation back, and the rest is how `takeMove` reads the agenda. -/
theorem stepRunsTheMove : Obligations.StepRunsTheMove := by
  refine ⟨fun i w s ms hwf henc => ?_, fun a s ms => rfl, fun s => rfl⟩
  have presented : ∀ (u : State) (ms : List Move), step { u with agenda := .bus w :: ms } = exec i { u with agenda := ms } := by
    intro u ms
    show exec (decode w) { u with agenda := ms } = _
    rw [decode_encode i w hwf henc]
  have word : wordOfNat w.toNat = w := BitVec.ofNat_toNat 48 w
  refine ⟨presented s ms, ?_⟩
  rw [State.withFetchWord, word]
  exact presented s s.agenda

end Sys2Proof

namespace Sys2Proof

open Sys2Proof.Machine

/-! ### What one move of a run can do -/

/-- A move of a run returns a value, performs or ignores a write, or is an agent's turn that the move names. -/
theorem move_next_cases (m : Move) (s t : State) (hx : exec (moveInstr m) s = .next t) :
    (∃ v, t = { s with rdata := some v }) ∨ (∃ r v, t = { writeReg r v s with rdata := none }) ∨
    t = { s with rdata := none } ∨ (∃ a, m = .agent a ∧ t = afterTurn a s) := by
  cases m with
  | agent a =>
    rw [show moveInstr (.agent a) = a.toInstr from rfl, exec_toInstr, agentTurn_next, ← afterTurn_eq] at hx
    exact .inr (.inr (.inr ⟨a, rfl, hx⟩))
  | bus w =>
    obtain read | write | ignored | ⟨a, turn, -⟩ := exec_next_cases _ s t hx
    · exact .inl read
    · exact .inr (.inl write)
    · exact .inr (.inr (.inl ignored))
    · exact absurd turn (decode_not_agentStep w a)

/-- Where a run takes an enabled step, the next state is its effect, but for the moves decided for later. -/
theorem takes_next {ms : Nat → Move} {ss : Nat → State} (h : isRun ms ss) {a : AgentStep} {n : Nat} (ht : takes ms ss a n) :
    ∃ (ag : List Move) (d : Nat), ss (n + 1) = { agentEffect a (ss n) with agenda := ag, draws := d } := by
  obtain ⟨ag, d, next⟩ := isRun_agent ms ss h n a ht.1
  exact ⟨ag, d, by rw [next, afterTurn_enabled a _ ht.2]⟩

/-- Along a run a sound state stays sound. -/
theorem inv_run {ms : Nat → Move} {ss : Nat → State} (h : isRun ms ss) {n : Nat} (hinv : Inv (ss n)) (m : Nat) (hm : n ≤ m) :
    Inv (ss m) := by
  induction m, hm using Nat.le_induction with
  | base => exact hinv
  | succ m _ ih =>
    obtain ⟨ag, d, hx⟩ := h m
    exact inv_exec _ _ _ (show Inv { ss m with agenda := ag, draws := d } from ih) hx

theorem noReset_mono {ms : Nat → Move} {n m : Nat} (h : noReset ms n) (hm : n ≤ m) : noReset ms m :=
  fun k hk => h k (le_trans hm hk)

/-! ### What a worker's enabled step rests on -/

/-- `t` has what the worker of a domain waits for in `s`: its phase, its frame, and an event word that is still not zero. -/
def workerKept : Domain → State → State → Prop
  | .enc, s, t => t.encwPh = s.encwPh ∧ (s.evEnc.ef ≠ 0 → t.evEnc.ef ≠ 0)
  | .led, s, t =>
    t.ledwPh = s.ledwPh ∧ t.txFrame = s.txFrame ∧ t.txPos = s.txPos ∧ (s.evLed.ef ≠ 0 → t.evLed.ef ≠ 0)
  | .other _, _, _ => True

theorem workerKept_refl (d : Domain) (s : State) : workerKept d s s := by
  cases d with
  | enc => exact ⟨rfl, id⟩
  | led => exact ⟨rfl, rfl, rfl, id⟩
  | other k => trivial

theorem workerKept_trans (d : Domain) {s t u : State} (hst : workerKept d s t) (htu : workerKept d t u) : workerKept d s u := by
  cases d with
  | enc => exact ⟨htu.1.trans hst.1, fun h => htu.2 (hst.2 h)⟩
  | led =>
    obtain ⟨ph, fr, pos, ef⟩ := hst
    obtain ⟨ph', fr', pos', ef'⟩ := htu
    exact ⟨ph'.trans ph, fr'.trans fr, pos'.trans pos, fun h => ef' (ef h)⟩
  | other k => trivial

/-- The fields of the model itself are nothing a worker waits for. -/
theorem workerKept_model (d : Domain) {s t : State} (hk : workerKept d s t) (rd : Option Word) (ag : List Move) (dr : Nat) :
    workerKept d s { t with rdata := rd, agenda := ag, draws := dr } := by
  cases d <;> exact hk

/-- An enabled step of a worker stays enabled while what it rests on is kept. -/
theorem workerKept_enabled (d : Domain) (a : AgentStep) (ha : a ∈ workerSteps d) {s t : State} (hk : workerKept d s t)
    (en : enabled a s = true) : enabled a t = true := by
  cases d with
  | enc =>
    obtain ⟨ph, ef⟩ := hk
    simp only [workerSteps, List.mem_cons, List.not_mem_nil, or_false] at ha
    obtain rfl | rfl | rfl := ha <;> simp_all [enabled]
  | led =>
    obtain ⟨ph, -, -, ef⟩ := hk
    simp only [workerSteps, List.mem_cons, List.not_mem_nil, or_false] at ha
    obtain rfl | rfl | rfl | rfl := ha <;> simp_all [enabled]
  | other k => exact absurd ha (by simp [workerSteps])

/-- The step of a worker that its phase names. -/
def phaseStep : Domain → State → AgentStep
  | .enc, s =>
    match s.encwPh with
    | .idle => .encwConsumeRead
    | .clear => .encwConsumeClear
    | .update => .encwUpdate
  | .led, s =>
    match s.ledwPh with
    | .idle => .ledwConsumeRead
    | .clear => .ledwConsumeClear
    | .start => .ledwStart
    | .tx => .ledwTx
  | .other _, _ => .tick

/-- No step of a worker but the one its phase names is enabled. -/
theorem eq_phaseStep (d : Domain) (a : AgentStep) (ha : a ∈ workerSteps d) (s : State) (en : enabled a s = true) :
    a = phaseStep d s := by
  cases d with
  | enc =>
    simp only [workerSteps, List.mem_cons, List.not_mem_nil, or_false] at ha
    obtain rfl | rfl | rfl := ha <;> simp_all [enabled, phaseStep]
  | led =>
    simp only [workerSteps, List.mem_cons, List.not_mem_nil, or_false] at ha
    obtain rfl | rfl | rfl | rfl := ha <;> simp_all [enabled, phaseStep]
  | other k => exact absurd ha (by simp [workerSteps])

/-- A set clears no bit (40_event_flags.md R121). -/
theorem or_ne_zero_of_left (x m : Word) (h : x ≠ 0) : x ||| m ≠ 0 := fun hor => h (BitVec.or_eq_zero_iff.1 hor).1

theorem edgeEvent_pending (m : Word) (s : State) (h : s.evEnc.ef ≠ 0) : (edgeEvent m s).evEnc.ef ≠ 0 := by
  unfold edgeEvent
  split
  · exact or_ne_zero_of_left _ _ h
  · exact h

theorem writeReg_enc_pending (r : RegName) (v : Word) (s : State) (h : s.evEnc.ef ≠ 0) : (writeReg r v s).evEnc.ef ≠ 0 := by
  cases r
  case efEnc => exact or_ne_zero_of_left _ _ h
  case ledSetOne => simpa [writeReg] using h
  case ledSetAll => simpa [writeReg] using h
  case ledStage i => simp only [writeReg]; split <;> exact h
  all_goals exact h

theorem writeReg_led_pending (r : RegName) (v : Word) (s : State) (h : s.evLed.ef ≠ 0) : (writeReg r v s).evLed.ef ≠ 0 := by
  cases r
  case efLed => exact or_ne_zero_of_left _ _ h
  case ledSetOne =>
    simp only [writeReg, setOne]
    split
    · exact or_ne_zero_of_left _ _ h
    · exact h
  case ledSetAll =>
    simp only [writeReg, setAll]
    split
    · exact h
    · exact or_ne_zero_of_left _ _ h
  case ledStage i => simp only [writeReg]; split <;> exact h
  all_goals exact h

/-- A host write takes nothing a worker waits for. -/
theorem workerKept_writeReg (d : Domain) (r : RegName) (v : Word) (s : State) : workerKept d s (writeReg r v s) := by
  cases d with
  | enc => exact ⟨writeReg_encwPh r v s, writeReg_enc_pending r v s⟩
  | led => exact ⟨writeReg_ledwPh r v s, writeReg_txFrame r v s, writeReg_txPos r v s, writeReg_led_pending r v s⟩
  | other k => trivial

/-- The step of another agent, apart from a reset, takes nothing a worker waits for (40_event_flags.md R139). -/
theorem workerKept_agentEffect (d : Domain) (a : AgentStep) (s : State) (foreign : a ∉ workerSteps d)
    (noReset : ∀ x y, a ≠ .reset x y) : workerKept d s (agentEffect a s) := by
  cases d with
  | enc =>
    cases a
    case syncA => exact ⟨syncPadA_encwPh s, edgeEvent_pending edgeA { s with syncA := s.padA }⟩
    case syncB => exact ⟨syncPadB_encwPh s, edgeEvent_pending edgeB { s with syncB := s.padB }⟩
    case ledwTx => exact ⟨transmit_encwPh s, by simp [agentEffect]⟩
    case encwConsumeRead => exact absurd (by decide) foreign
    case encwConsumeClear => exact absurd (by decide) foreign
    case encwUpdate => exact absurd (by decide) foreign
    case reset x y => exact absurd rfl (noReset x y)
    all_goals exact ⟨rfl, id⟩
  | led =>
    cases a
    case syncA => exact ⟨syncPadA_ledwPh s, syncPadA_txFrame s, syncPadA_txPos s, by simp [agentEffect]⟩
    case syncB => exact ⟨syncPadB_ledwPh s, syncPadB_txFrame s, syncPadB_txPos s, by simp [agentEffect]⟩
    case encwUpdate => simp [workerKept, agentEffect]
    case ledwConsumeRead => exact absurd (by decide) foreign
    case ledwConsumeClear => exact absurd (by decide) foreign
    case ledwStart => exact absurd (by decide) foreign
    case ledwTx => exact absurd (by decide) foreign
    case reset x y => exact absurd rfl (noReset x y)
    all_goals exact ⟨rfl, rfl, rfl, id⟩
  | other k => trivial

/-- While an enabled step of a worker is not taken and no reset is, what it rests on is kept: the only other agent's turn that
could change it is one of the same worker, and none of those is enabled. -/
theorem workerKept_next {ms : Nat → Move} {ss : Nat → State} (h : isRun ms ss) {n : Nat} (hno : noReset ms n) (d : Domain)
    (a : AgentStep) (ha : a ∈ workerSteps d) (en : enabled a (ss n) = true) (untaken : ms n ≠ .agent a) :
    workerKept d (ss n) (ss (n + 1)) := by
  obtain ⟨ag, k, hx⟩ := h n
  have start : workerKept d (ss n) { ss n with agenda := ag, draws := k } :=
    workerKept_model d (workerKept_refl d (ss n)) _ ag k
  refine workerKept_trans d start ?_
  generalize { ss n with agenda := ag, draws := k } = s at hx start
  have en' : enabled a s = true := workerKept_enabled d a ha start en
  obtain ⟨v, next⟩ | ⟨r, v, next⟩ | next | ⟨b, move, next⟩ := move_next_cases _ _ _ hx <;> rw [next]
  · exact workerKept_model d (workerKept_refl d s) (some v) s.agenda s.draws
  · exact workerKept_model d (workerKept_writeReg d r v s) none _ _
  · exact workerKept_model d (workerKept_refl d s) none s.agenda s.draws
  · cases eb : enabled b s with
    | false =>
      rw [afterTurn_disabled b s eb]
      exact workerKept_refl d s
    | true =>
      rw [afterTurn_enabled b s eb]
      refine workerKept_agentEffect d b s (fun hb => ?_) fun x y hreset => hno n le_rfl x y (hreset ▸ move)
      have same : b = a := (eq_phaseStep d b hb s eb).trans (eq_phaseStep d a ha s en').symm
      exact untaken (same ▸ move)

theorem workerSteps_internal (d : Domain) (a : AgentStep) (ha : a ∈ workerSteps d) : a ∈ internalSteps := by
  cases d with
  | enc => revert a; decide
  | led => revert a; decide
  | other k => exact absurd ha (by simp [workerSteps])

/-- In a fair run an enabled step of a worker is eventually taken, and until then what it rests on is kept (00_scope.md R5). -/
theorem worker_step_taken {ms : Nat → Move} {ss : Nat → State} (h : fairRun ms ss) {n : Nat} (hno : noReset ms n) (d : Domain)
    (a : AgentStep) (ha : a ∈ workerSteps d) (en : enabled a (ss n) = true) :
    ∃ m, n ≤ m ∧ takes ms ss a m ∧ workerKept d (ss n) (ss m) := by
  obtain ⟨hrun, hfair⟩ := h
  by_contra never
  have kept : ∀ m, n ≤ m → workerKept d (ss n) (ss m) := by
    intro m hm
    induction m, hm using Nat.le_induction with
    | base => exact workerKept_refl d (ss n)
    | succ m hm ih =>
      have enm : enabled a (ss m) = true := workerKept_enabled d a ha ih en
      exact workerKept_trans d ih
        (workerKept_next hrun (noReset_mono hno hm) d a ha enm fun taken => never ⟨m, hm, ⟨taken, enm⟩, ih⟩)
  have always : ∀ m, n ≤ m → enabled a (ss m) = true := fun m hm => workerKept_enabled d a ha (kept m hm) en
  obtain ⟨m, hm, taken⟩ := hfair a (workerSteps_internal d a ha) n always
  exact never ⟨m, hm, ⟨taken, always m hm⟩, kept m hm⟩

/-! ### The encoder worker serves its events (40_event_flags.md R140) -/

/-- From the `n`-th state on, a consume-clear of ENCW is taken, and an update after it. -/
def encServed (ms : Nat → Move) (ss : Nat → State) (n : Nat) : Prop :=
  ∃ m k, n ≤ m ∧ m < k ∧ takes ms ss .encwConsumeClear m ∧ takes ms ss .encwUpdate k

theorem encServed_mono {ms : Nat → Move} {ss : Nat → State} {n n' : Nat} (hn : n ≤ n') (h : encServed ms ss n') :
    encServed ms ss n := by
  obtain ⟨m, k, hm, rest⟩ := h
  exact ⟨m, k, le_trans hn hm, rest⟩

section
variable {ms : Nat → Move} {ss : Nat → State} {n : Nat}

theorem encServed_of_clear (h : fairRun ms ss) (hno : noReset ms n) (ph : (ss n).encwPh = .clear) : encServed ms ss n := by
  obtain ⟨m, hm, clear, -⟩ := worker_step_taken h hno .enc .encwConsumeClear (by decide) (by simp [enabled, ph])
  obtain ⟨ag, d, next⟩ := takes_next h.1 clear
  have hm' : n ≤ m + 1 := by omega
  obtain ⟨k, hk, update, -⟩ := worker_step_taken h (noReset_mono hno hm') .enc .encwUpdate (by decide) (by rw [next]; rfl)
  exact ⟨m, k, hm, by omega, clear, update⟩

theorem encServed_of_idle (h : fairRun ms ss) (hno : noReset ms n) (ph : (ss n).encwPh = .idle) (ef : (ss n).evEnc.ef ≠ 0) :
    encServed ms ss n := by
  obtain ⟨m, hm, read, -⟩ := worker_step_taken h hno .enc .encwConsumeRead (by decide) (by simpa [enabled, ph] using ef)
  obtain ⟨ag, d, next⟩ := takes_next h.1 read
  have hm' : n ≤ m + 1 := by omega
  exact encServed_mono hm' (encServed_of_clear h (noReset_mono hno hm') (by rw [next]; rfl))

theorem encServed_of_update (h : fairRun ms ss) (hno : noReset ms n) (ph : (ss n).encwPh = .update)
    (ef : (ss n).evEnc.ef ≠ 0) : encServed ms ss n := by
  obtain ⟨m, hm, update, -, pending⟩ := worker_step_taken h hno .enc .encwUpdate (by decide) (by simp [enabled, ph])
  obtain ⟨ag, d, next⟩ := takes_next h.1 update
  have hm' : n ≤ m + 1 := by omega
  have ef' : (ss (m + 1)).evEnc.ef ≠ 0 := by simpa [next, agentEffect] using pending ef
  exact encServed_mono hm' (encServed_of_idle h (noReset_mono hno hm') (by rw [next]; rfl) ef')

theorem encServed_of_pending (h : fairRun ms ss) (hno : noReset ms n) (ef : (ss n).evEnc.ef ≠ 0) : encServed ms ss n := by
  cases ph : (ss n).encwPh with
  | idle => exact encServed_of_idle h hno ph ef
  | clear => exact encServed_of_clear h hno ph
  | update => exact encServed_of_update h hno ph ef

end

/-! ### The LED worker serves its events (40_event_flags.md R140) -/

/-- From the `n`-th state on, a consume-clear of LEDW is taken, a start step after it, and later the worker is idle. -/
def ledServed (ms : Nat → Move) (ss : Nat → State) (n : Nat) : Prop :=
  ∃ m k j, n ≤ m ∧ m < k ∧ k < j ∧ takes ms ss .ledwConsumeClear m ∧ takes ms ss .ledwStart k ∧ (ss j).ledwPh = .idle

theorem ledServed_mono {ms : Nat → Move} {ss : Nat → State} {n n' : Nat} (hn : n ≤ n') (h : ledServed ms ss n') :
    ledServed ms ss n := by
  obtain ⟨m, k, j, hm, rest⟩ := h
  exact ⟨m, k, j, le_trans hn hm, rest⟩

/-- The transmit step at an event of the frame ends the frame or goes on to its next event (42_led_encoder.md R216). -/
theorem transmit_progress (s : State) (inFrame : s.txPos < s.txFrame.length) :
    (transmit s).ledwPh = .idle ∨
    (s.txPos + 1 < s.txFrame.length ∧ (transmit s).ledwPh = s.ledwPh ∧ (transmit s).txFrame = s.txFrame ∧
      (transmit s).txPos = s.txPos + 1) := by
  have he := List.getElem?_eq_getElem inFrame
  by_cases last : s.txPos + 1 = s.txFrame.length
  · rw [transmit_last s _ he last]
    exact .inl rfl
  · rw [transmit_next s _ he last]
    exact .inr ⟨by omega, rfl, rfl, rfl⟩

section
variable {ms : Nat → Move} {ss : Nat → State} {n : Nat}

/-- A frame being sent comes to its end, and an event pending meanwhile stays pending: by induction on a bound on the events
left. -/
theorem frame_ends (h : fairRun ms ss) (left : Nat) : ∀ n, noReset ms n → (ss n).ledwPh = .tx →
    (ss n).txPos < (ss n).txFrame.length → (ss n).txFrame.length ≤ (ss n).txPos + left →
    ∃ j, n < j ∧ (ss j).ledwPh = .idle ∧ ((ss n).evLed.ef ≠ 0 → (ss j).evLed.ef ≠ 0) := by
  induction left with
  | zero => intro n _ _ inFrame hleft; omega
  | succ left ih =>
    intro n hno ph inFrame hleft
    obtain ⟨m, hm, tx, ph', fr, pos, ef⟩ := worker_step_taken h hno .led .ledwTx (by decide) (by simp [enabled, ph])
    obtain ⟨ag, d, next⟩ := takes_next h.1 tx
    have hm' : n < m + 1 := by omega
    have ef' : (ss n).evLed.ef ≠ 0 → (ss (m + 1)).evLed.ef ≠ 0 := by simpa [next, agentEffect] using ef
    obtain idle | ⟨more, ph'', fr', pos'⟩ := transmit_progress (ss m) (by rw [fr, pos]; exact inFrame)
    · exact ⟨m + 1, hm', by rw [next]; exact idle, ef'⟩
    · have phNext : (ss (m + 1)).ledwPh = .tx := by rw [next]; exact ph''.trans (ph'.trans ph)
      have frNext : (ss (m + 1)).txFrame = (ss n).txFrame := by rw [next]; exact fr'.trans fr
      have posNext : (ss (m + 1)).txPos = (ss n).txPos + 1 := by rw [next, ← pos]; exact pos'
      rw [fr, pos] at more
      obtain ⟨j, hj, idle, efj⟩ := ih (m + 1) (noReset_mono hno hm'.le) phNext (by rw [frNext, posNext]; omega)
        (by rw [frNext, posNext]; omega)
      exact ⟨j, by omega, idle, fun hef => efj (ef' hef)⟩

/-- A start step is followed by an idle worker, and an event pending meanwhile stays pending. -/
theorem start_ends (h : fairRun ms ss) (hno : noReset ms n) (start : takes ms ss .ledwStart n) :
    ∃ j, n < j ∧ (ss j).ledwPh = .idle ∧ ((ss n).evLed.ef ≠ 0 → (ss j).evLed.ef ≠ 0) := by
  obtain ⟨ag, d, next⟩ := takes_next h.1 start
  have whole : (ss (n + 1)).txFrame.length = frameEvents (ss n).buf.length := by
    rw [next]
    exact serialize_frame_length _
  have atStart : (ss (n + 1)).txPos = 0 := by rw [next]; rfl
  have nonempty := frameEvents_pos (ss n).buf.length
  obtain ⟨j, hj, idle, ef⟩ := frame_ends h _ (n + 1) (noReset_mono hno (Nat.le_succ n)) (by rw [next]; rfl) (by omega)
    (Nat.le_add_left _ _)
  refine ⟨j, by omega, idle, fun pending => ef ?_⟩
  rw [next]
  exact pending

theorem ledServed_of_clear (h : fairRun ms ss) (hno : noReset ms n) (ph : (ss n).ledwPh = .clear) : ledServed ms ss n := by
  obtain ⟨m, hm, clear, -⟩ := worker_step_taken h hno .led .ledwConsumeClear (by decide) (by simp [enabled, ph])
  obtain ⟨ag, d, next⟩ := takes_next h.1 clear
  have hm' : n ≤ m + 1 := by omega
  obtain ⟨k, hk, start, -⟩ := worker_step_taken h (noReset_mono hno hm') .led .ledwStart (by decide) (by rw [next]; rfl)
  obtain ⟨j, hj, idle, -⟩ := start_ends h (noReset_mono hno (le_trans hm' hk)) start
  exact ⟨m, k, j, hm, by omega, hj, clear, start, idle⟩

theorem ledServed_of_idle (h : fairRun ms ss) (hno : noReset ms n) (ph : (ss n).ledwPh = .idle) (ef : (ss n).evLed.ef ≠ 0) :
    ledServed ms ss n := by
  obtain ⟨m, hm, read, -⟩ := worker_step_taken h hno .led .ledwConsumeRead (by decide) (by simpa [enabled, ph] using ef)
  obtain ⟨ag, d, next⟩ := takes_next h.1 read
  have hm' : n ≤ m + 1 := by omega
  exact ledServed_mono hm' (ledServed_of_clear h (noReset_mono hno hm') (by rw [next]; rfl))

theorem ledServed_of_start (h : fairRun ms ss) (hno : noReset ms n) (ph : (ss n).ledwPh = .start)
    (ef : (ss n).evLed.ef ≠ 0) : ledServed ms ss n := by
  obtain ⟨m, hm, start, -, -, -, pending⟩ := worker_step_taken h hno .led .ledwStart (by decide) (by simp [enabled, ph])
  obtain ⟨j, hj, idle, efj⟩ := start_ends h (noReset_mono hno hm) start
  have hj' : n ≤ j := by omega
  exact ledServed_mono hj' (ledServed_of_idle h (noReset_mono hno hj') idle (efj (pending ef)))

theorem ledServed_of_tx (h : fairRun ms ss) (hno : noReset ms n) (ph : (ss n).ledwPh = .tx)
    (inFrame : (ss n).txPos < (ss n).txFrame.length) (ef : (ss n).evLed.ef ≠ 0) : ledServed ms ss n := by
  obtain ⟨j, hj, idle, efj⟩ := frame_ends h _ n hno ph inFrame (Nat.le_add_left _ _)
  exact ledServed_mono hj.le (ledServed_of_idle h (noReset_mono hno hj.le) idle (efj ef))

theorem ledServed_of_pending (h : fairRun ms ss) (hno : noReset ms n) (hinv : Inv (ss n)) (ef : (ss n).evLed.ef ≠ 0) :
    ledServed ms ss n := by
  cases ph : (ss n).ledwPh with
  | idle => exact ledServed_of_idle h hno ph ef
  | clear => exact ledServed_of_clear h hno ph
  | start => exact ledServed_of_start h hno ph ef
  | tx =>
    obtain ⟨inFrame, -⟩ := hinv.frame.2 ph
    exact ledServed_of_tx h hno ph inFrame ef

end

/-- Settles O59: an enabled step of a worker is not disabled by any other agent, so fairness takes it; each phase of a worker leads
to the next. -/
theorem fairRunsServeEvents : Obligations.FairRunsServeEvents := by
  intro ms ss n h hno hinv
  refine ⟨fun en => ?_, fun en => ?_, encServed_of_pending h hno, ledServed_of_pending h hno hinv⟩
  · obtain ⟨m, hm, read, -⟩ := worker_step_taken h hno .enc .encwConsumeRead (by decide) en
    exact ⟨m, hm, read⟩
  · obtain ⟨m, hm, read, -⟩ := worker_step_taken h hno .led .ledwConsumeRead (by decide) en
    exact ⟨m, hm, read⟩

end Sys2Proof

namespace Sys2Proof

open Sys2Proof.Machine

/-! ### Every internal step lowers the work left (70_reset_and_hazards.md R285) -/

/-- Whatever happens to `EF[ENC]`, in one phase ENCW has at most one more service of it to give. -/
theorem encWork_le (s t : State) (ph : t.encwPh = s.encwPh) : encWork t ≤ encWork s + 3 := by
  unfold encWork
  rw [ph]
  cases s.encwPh
  case idle => dsimp only; split <;> omega
  case clear => exact Nat.le_add_right 2 3
  case update => dsimp only; split <;> split <;> omega

theorem workLeft_syncA (s : State) (moved : s.syncA ≠ s.padA) : workLeft (syncPadA s) < workLeft s := by
  have sync : syncWork (syncPadA s) + 4 = syncWork s := by simp [syncWork, moved, Nat.add_comm]
  have led : ledWork (syncPadA s) = ledWork s := by simp [ledWork, ledPending, State.len]
  have enc := encWork_le s (syncPadA s) (syncPadA_encwPh s)
  unfold workLeft
  omega

theorem workLeft_syncB (s : State) (moved : s.syncB ≠ s.padB) : workLeft (syncPadB s) < workLeft s := by
  have sync : syncWork (syncPadB s) + 4 = syncWork s := by simp [syncWork, moved]
  have led : ledWork (syncPadB s) = ledWork s := by simp [ledWork, ledPending, State.len]
  have enc := encWork_le s (syncPadB s) (syncPadB_encwPh s)
  unfold workLeft
  omega

/-- A step that leaves the synchronisers and LEDW alone lowers the work left when it lowers the work of ENCW. -/
theorem workLeft_of_encWork {s t : State} (sync : syncWork t = syncWork s) (led : ledWork t = ledWork s)
    (enc : encWork t < encWork s) : workLeft t < workLeft s := by
  unfold workLeft
  omega

/-- A step that leaves the synchronisers and ENCW alone lowers the work left when it lowers the work of LEDW. -/
theorem workLeft_of_ledWork {s t : State} (sync : syncWork t = syncWork s) (enc : encWork t = encWork s)
    (led : ledWork t < ledWork s) : workLeft t < workLeft s := by
  unfold workLeft
  omega

theorem encWork_idle (s : State) (ph : s.encwPh = .idle) (pending : s.evEnc.ef ≠ 0) : encWork s = 3 := by
  rw [encWork, ph]
  exact if_neg pending

theorem ledWork_idle (s : State) (ph : s.ledwPh = .idle) (pending : s.evLed.ef ≠ 0) : ledWork s = frameEvents s.len + 3 := by
  rw [ledWork, ph]
  exact if_neg pending

theorem encWork_update (s : State) (ph : s.encwPh = .update) : encWork { sampleEncoder s with encwPh := .idle } < encWork s := by
  simp only [encWork, ph, sampleEncoder_evEnc]
  split <;> decide

theorem ledWork_startFrame (s : State) (ph : s.ledwPh = .start) : ledWork (startFrame s) < ledWork s := by
  have pending : ledPending (startFrame s) = ledPending s := rfl
  simp only [ledWork, ph, startFrame_ledwPh, startFrame_txFrame, startFrame_txPos, serialize_frame_length, State.len, pending]
  omega

theorem ledWork_transmit (s : State) (ph : s.ledwPh = .tx) (inFrame : s.txPos < s.txFrame.length) :
    ledWork (transmit s) < ledWork s := by
  have pending : ledPending (transmit s) = ledPending s := by simp [ledPending, State.len]
  obtain idle | ⟨more, ph', fr, pos⟩ := transmit_progress s inFrame
  · simp only [ledWork, ph, idle, pending]
    omega
  · simp only [ledWork, ph', ph, fr, pos, pending]
    omega

/-- In a sound state every enabled step of an internal agent lowers the bound on the steps left. -/
theorem workLeft_agentEffect (a : AgentStep) (ha : a ∈ internalSteps) (s : State) (h : Inv s) (en : enabled a s = true) :
    workLeft (agentEffect a s) < workLeft s := by
  cases a
  case syncA => exact workLeft_syncA s (by simpa [enabled] using en)
  case syncB => exact workLeft_syncB s (by simpa [enabled] using en)
  case encwConsumeRead =>
    obtain ⟨ph, pending⟩ : s.encwPh = .idle ∧ s.evEnc.ef ≠ 0 := by simpa [enabled] using en
    exact workLeft_of_encWork rfl rfl (by rw [encWork_idle s ph pending]; exact Nat.lt_succ_self 2)
  case encwConsumeClear =>
    have ph : s.encwPh = .clear := by simpa [enabled] using en
    exact workLeft_of_encWork rfl rfl (by simp [encWork, agentEffect, ph])
  case encwUpdate =>
    have ph : s.encwPh = .update := by simpa [enabled] using en
    exact workLeft_of_encWork (by simp [syncWork, agentEffect]) (by simp [ledWork, ledPending, State.len, agentEffect])
      (encWork_update s ph)
  case ledwConsumeRead =>
    obtain ⟨ph, pending⟩ : s.ledwPh = .idle ∧ s.evLed.ef ≠ 0 := by simpa [enabled] using en
    exact workLeft_of_ledWork rfl rfl (by rw [ledWork_idle s ph pending]; exact Nat.lt_succ_self _)
  case ledwConsumeClear =>
    have ph : s.ledwPh = .clear := by simpa [enabled] using en
    exact workLeft_of_ledWork rfl rfl (by simp [ledWork, ledPending, State.len, agentEffect, ph])
  case ledwStart => exact workLeft_of_ledWork rfl rfl (ledWork_startFrame s (by simpa [enabled] using en))
  case ledwTx =>
    have ph : s.ledwPh = .tx := by simpa [enabled] using en
    obtain ⟨inFrame, -⟩ := h.frame.2 ph
    exact workLeft_of_ledWork (by simp [syncWork, agentEffect]) (by simp [encWork, agentEffect])
      (ledWork_transmit s ph inFrame)
  all_goals simp [internalSteps] at ha

/-! ### A fair run comes to rest once HOST and ENV stop (70_reset_and_hazards.md R285, R301) -/

/-- The block is quiescent exactly when no internal agent has an enabled step. -/
theorem quiescent_iff_none_enabled (s : State) : quiescent s ↔ ∀ a ∈ internalSteps, enabled a s = false := by
  constructor
  · rintro ⟨syncA, syncB, ⟨encPh, encEf⟩, ledPh, ledEf⟩
    simp [internalSteps, enabled, syncA, syncB, encPh, encEf, ledPh, ledEf]
  · intro disabled
    simp only [internalSteps, List.forall_mem_cons, enabled] at disabled
    obtain ⟨syncA, syncB, encRead, encClear, encUpdate, ledRead, ledClear, ledStart, ledTx, -⟩ := disabled
    have encPh : s.encwPh = .idle := by cases ph : s.encwPh <;> simp_all
    have ledPh : s.ledwPh = .idle := by cases ph : s.ledwPh <;> simp_all
    exact ⟨by simpa using syncA, by simpa using syncB, ⟨encPh, by simpa [encPh] using encRead⟩, ledPh,
      by simpa [ledPh] using ledRead⟩

section
variable {ms : Nat → Move} {ss : Nat → State} {n : Nat}

/-- Once HOST and ENV have stopped, a move lowers the work left, or leaves it and every enabling condition as they were: TICK and
the turn of an agent with nothing to do change neither. -/
theorem internal_move (h : isRun ms ss) (stop : hostAndEnvStop ms n) (hinv : Inv (ss n)) :
    ((∃ a ∈ internalSteps, takes ms ss a n) ∧ workLeft (ss (n + 1)) < workLeft (ss n)) ∨
    ((∀ a ∈ internalSteps, ¬ takes ms ss a n) ∧ workLeft (ss (n + 1)) = workLeft (ss n) ∧
      ∀ a ∈ internalSteps, enabled a (ss (n + 1)) = enabled a (ss n)) := by
  obtain tick | ⟨b, hb, move⟩ := stop n le_rfl
  · obtain ⟨ag, d, next⟩ := isRun_agent ms ss h n .tick tick
    have untaken : ∀ a ∈ internalSteps, ms n ≠ .agent a := by
      rw [tick]
      decide
    refine .inr ⟨fun a ha taken => untaken a ha taken.1, ?_, fun a ha => ?_⟩
    · rw [next]
      rfl
    · rw [next, enabled_bookkeeping]
      cases a <;> rfl
  · obtain ⟨ag, d, next⟩ := isRun_agent ms ss h n b move
    cases en : enabled b (ss n) with
    | true =>
      refine .inl ⟨⟨b, hb, move, en⟩, ?_⟩
      rw [next, afterTurn_enabled b _ en]
      exact workLeft_agentEffect b hb (ss n) hinv en
    | false =>
      rw [afterTurn_disabled b _ en] at next
      refine .inr ⟨fun a _ taken => ?_, by rw [next]; rfl, fun a _ => by rw [next, enabled_bookkeeping]⟩
      obtain rfl : b = a := Move.agent.inj (move.symm.trans taken.1)
      exact absurd taken.2 (by simp [en])

theorem hostAndEnvStop_mono {m : Nat} (stop : hostAndEnvStop ms n) (hm : n ≤ m) : hostAndEnvStop ms m :=
  fun k hk => stop k (le_trans hm hk)

/-- A quiescent block stays quiescent while only internal agents and TICK move. -/
theorem quiescent_stays (h : isRun ms ss) (stop : hostAndEnvStop ms n) (hinv : Inv (ss n)) (hq : quiescent (ss n)) (k : Nat)
    (hk : n ≤ k) : quiescent (ss k) := by
  induction k, hk using Nat.le_induction with
  | base => exact hq
  | succ k hk ih =>
    rw [quiescent_iff_none_enabled] at ih ⊢
    obtain ⟨⟨a, ha, taken⟩, -⟩ | ⟨-, -, same⟩ := internal_move h (hostAndEnvStop_mono stop hk) (inv_run h hinv k hk)
    · exact absurd taken.2 (by simp [ih a ha])
    · exact fun a ha => (same a ha).trans (ih a ha)

/-- While an internal agent has an enabled step, fairness lowers the work left sooner or later: if it never fell, nothing would be
taken, so the step would stay enabled and be taken. -/
theorem work_falls (h : fairRun ms ss) (stop : hostAndEnvStop ms n) (hinv : Inv (ss n)) {a : AgentStep}
    (ha : a ∈ internalSteps) (en : enabled a (ss n) = true) : ∃ m, n ≤ m ∧ workLeft (ss m) < workLeft (ss n) := by
  obtain ⟨hrun, hfair⟩ := h
  by_contra never
  have still : ∀ m, n ≤ m → workLeft (ss m) = workLeft (ss n) ∧ enabled a (ss m) = true := by
    intro m hm
    induction m, hm using Nat.le_induction with
    | base => exact ⟨rfl, en⟩
    | succ m hm ih =>
      obtain ⟨-, fell⟩ | ⟨-, work, same⟩ := internal_move hrun (hostAndEnvStop_mono stop hm) (inv_run hrun hinv m hm)
      · exact absurd ⟨m + 1, by omega, by omega⟩ never
      · exact ⟨work.trans ih.1, (same a ha).trans ih.2⟩
  obtain ⟨m, hm, move⟩ := hfair a ha n fun m hm => (still m hm).2
  obtain ⟨-, fell⟩ | ⟨untaken, -⟩ := internal_move hrun (hostAndEnvStop_mono stop hm) (inv_run hrun hinv m hm)
  · have work := (still m hm).1
    exact never ⟨m + 1, by omega, by omega⟩
  · exact untaken a ha ⟨move, (still m hm).2⟩

end

/-- Settles O60, by induction on the work left. -/
theorem fairRunsReachQuiescence : Obligations.FairRunsReachQuiescence := by
  intro ms ss n h stop hinv
  induction work : workLeft (ss n) using Nat.strong_induction_on generalizing n with
  | _ w ih =>
    by_cases hq : quiescent (ss n)
    · exact ⟨n, le_rfl, quiescent_stays h.1 stop hinv hq⟩
    · rw [quiescent_iff_none_enabled] at hq
      push Not at hq
      obtain ⟨a, ha, en⟩ := hq
      obtain ⟨m, hm, fell⟩ := work_falls h stop hinv ha (by simpa using en)
      obtain ⟨k, hk, rest⟩ := ih _ (work ▸ fell) m (hostAndEnvStop_mono stop hm) (inv_run h.1 hinv m hm) rfl
      exact ⟨k, le_trans hm hk, rest⟩

end Sys2Proof

/-!
SUPPORT. The state family: what each operation does to the raw counter and its projection, and to the length of the strip.
-/

namespace Sys2Proof

open Sys2Proof.Machine

/-! ### Agent steps and transactions -/

/-- Every operation with no bus encoding is the step of an agent (30_encoding.md R101). -/
theorem eq_toInstr_of_isAgentStep (i : Instr) (agent : i.isAgentStep = true) : ∃ a : AgentStep, i = a.toInstr := by
  cases i
  case envPads a b => exact ⟨.envPads a b, rfl⟩
  case syncA => exact ⟨.syncA, rfl⟩
  case syncB => exact ⟨.syncB, rfl⟩
  case encwConsumeRead => exact ⟨.encwConsumeRead, rfl⟩
  case encwConsumeClear => exact ⟨.encwConsumeClear, rfl⟩
  case encwUpdate => exact ⟨.encwUpdate, rfl⟩
  case ledwConsumeRead => exact ⟨.ledwConsumeRead, rfl⟩
  case ledwConsumeClear => exact ⟨.ledwConsumeClear, rfl⟩
  case ledwStart => exact ⟨.ledwStart, rfl⟩
  case ledwTx => exact ⟨.ledwTx, rfl⟩
  case tick => exact ⟨.tick, rfl⟩
  case reset a b => exact ⟨.reset a b, rfl⟩
  all_goals cases agent

theorem eq_reset_of_isReset (i : Instr) (reset : isReset i = true) : ∃ a b, i = .reset a b := by
  cases i
  case reset a b => exact ⟨a, b, rfl⟩
  all_goals cases reset

/-- A reset is always enabled (70_reset_and_hazards.md R280). -/
theorem exec_reset_next (a b : Bool) (s t : State) (h : exec (.reset a b) s = .next t) : t = resetBlock a b s := by
  cases h
  rfl

/-! ### The raw counter and its projection (10_state.md R50, R51) -/

/-- `EXT` is the projection of `RAW` by the shift of the latch mode (10_state.md R51). -/
def projected (s : State) : Prop := s.ext = asr s.raw (shiftOf s.latchMode)

theorem projected_of_eq {s t : State} (h : projected s) (raw : t.raw = s.raw) (ext : t.ext = s.ext)
    (shift : shiftOf t.latchMode = shiftOf s.latchMode) : projected t := by
  rw [projected, raw, ext, shift]
  exact h

/-- A set position is the only register write that moves the counter or the external position (20_memory.md R62). -/
theorem writeReg_position (r : RegName) (v : Word) (s : State) (notPos : r ≠ .encPos) :
    (writeReg r v s).raw = s.raw ∧ (writeReg r v s).ext = s.ext := by
  cases r
  case encPos => exact absurd rfl notPos
  case ledSetOne => exact ⟨setOne_raw _ s, setOne_ext _ s⟩
  case ledSetAll => exact ⟨setAll_raw v s, setAll_ext v s⟩
  case efEnc => exact ⟨setEvents_raw .enc v s, setEvents_ext .enc v s⟩
  case efLed => exact ⟨setEvents_raw .led v s, setEvents_ext .led v s⟩
  case ledStage i => simp only [writeReg]; split <;> exact ⟨rfl, rfl⟩
  all_goals exact ⟨rfl, rfl⟩

/-- No agent step but an update and a reset touches the positions or the latch mode. -/
theorem agentEffect_position (a : AgentStep) (s : State) (notUpdate : a ≠ .encwUpdate) (notReset : isReset a.toInstr = false) :
    (agentEffect a s).raw = s.raw ∧ (agentEffect a s).ext = s.ext ∧ (agentEffect a s).latchMode = s.latchMode := by
  cases a
  case syncA => exact ⟨syncPadA_raw s, syncPadA_ext s, syncPadA_latchMode s⟩
  case syncB => exact ⟨syncPadB_raw s, syncPadB_ext s, syncPadB_latchMode s⟩
  case ledwTx => exact ⟨transmit_raw s, transmit_ext s, transmit_latchMode s⟩
  case encwUpdate => exact absurd rfl notUpdate
  case reset a b => cases notReset
  all_goals exact ⟨rfl, rfl, rfl⟩

/-- A host transaction other than a set position keeps the counter: a read changes only the answer, and a write performs the write
rule of its own register. -/
theorem exec_raw_of_transaction (i : Instr) (s t : State) (bus : i.isAgentStep = false) (notPos : ∀ v, i ≠ .wrEncPos v)
    (h : exec i s = .next t) : t.raw = s.raw := by
  have written : ∀ (r : RegName) (v : Word), r ≠ .encPos → hostWrite r v s = .next t → t.raw = s.raw := by
    intro r v hr hw
    rw [(hostWrite_next r v s t).1 hw]
    exact (writeReg_position r v s hr).1
  cases i
  case wrEncPos v => exact absurd rfl (notPos v)
  case wrLedSetOne v => exact written .ledSetOne v nofun h
  case wrLedSetAll v => exact written .ledSetAll v nofun h
  case wrLedStage k v => exact written (.ledStage k) v nofun h
  all_goals cases bus
  all_goals cases h
  all_goals rfl

/-- The counter after a move: the exact sum, or the opposite bound past a bound with the range wrap on, brought to `RAW_W` bits
(41_quadrature_decoder.md R152, R153). -/
theorem movedRaw_cases (s : State) (d : Int) :
    movedRaw s d = truncN s.cfg.rawW (s.raw + d) ∨
    (s.clampEn = true ∧ s.maxPos < s.raw + d ∧ movedRaw s d = truncN s.cfg.rawW s.minPos) ∨
    (s.clampEn = true ∧ s.raw + d < s.minPos ∧ movedRaw s d = truncN s.cfg.rawW s.maxPos) := by
  unfold movedRaw
  split
  · next wraps =>
    have clamp : s.clampEn = true := (Bool.and_eq_true_iff.1 wraps).1
    unfold wrapRange
    split
    · next above => exact .inr (.inl ⟨clamp, above, rfl⟩)
    · split
      · next below => exact .inr (.inr ⟨clamp, below, rfl⟩)
      · exact .inl rfl
  · exact .inl rfl

/-- An update either changes nothing or takes the new sample (41_quadrature_decoder.md R152). -/
theorem sampleEncoder_cases (s : State) :
    sampleEncoder s = s ∨ sampleEncoder s = takeSample (sampleOf s.syncA s.syncB) s := by
  simp only [sampleEncoder]
  split
  · exact .inl rfl
  · exact .inr rfl

/-- An update that moves the counter moves it by the delta of the direction table. -/
theorem sampleEncoder_raw_of_ne (s : State) (moved : (sampleEncoder s).raw ≠ s.raw) :
    (sampleEncoder s).raw = movedRaw s (dirDelta s.prevSample (sampleOf s.syncA s.syncB)) := by
  obtain same | taken := sampleEncoder_cases s
  · exact absurd (congrArg State.raw same) moved
  · rw [taken, takeSample_raw]

/-- Settles O37: a transaction that moves the counter is a set position, and an agent step that does is a reset or an update. -/
theorem rawWriters : Obligations.RawWriters := by
  intro i s t h moved
  by_cases agent : i.isAgentStep = true
  · obtain ⟨a, rfl⟩ := eq_toInstr_of_isAgentStep i agent
    rw [exec_toInstr, agentTurn_next] at h
    split at h
    · subst h
      by_cases update : a = .encwUpdate
      · subst update
        have raw := sampleEncoder_raw_of_ne s moved
        refine .inr (.inr ⟨rfl, _, rfl, ?_⟩)
        rw [show (agentEffect .encwUpdate s).raw = (sampleEncoder s).raw from rfl, raw]
        exact movedRaw_cases s _
      · refine .inl (by_contra fun notReset => moved ?_)
        exact (agentEffect_position a s update (Bool.eq_false_of_not_eq_true notReset)).1
    · exact absurd (congrArg State.raw h) moved
  · refine .inr (.inl (by_contra fun notPos => moved ?_))
    exact exec_raw_of_transaction i s t (Bool.eq_false_of_not_eq_true agent) (not_exists.1 notPos) h

/-! ### The projection is kept (10_state.md R51) -/

/-- A set position projects the new counter, and any other register write leaves both positions alone. -/
theorem projected_writeReg (r : RegName) (v : Word) (s : State) (h : projected s)
    (shift : shiftOf (writeReg r v s).latchMode = shiftOf s.latchMode) : projected (writeReg r v s) := by
  by_cases pos : r = .encPos
  · subst pos
    rfl
  · obtain ⟨raw, ext⟩ := writeReg_position r v s pos
    exact projected_of_eq h raw ext shift

/-- Without gating every sample that `update()` takes is projected (41_quadrature_decoder.md R152). -/
theorem projected_takeSample (c : BitVec 2) (s : State) (ungated : s.cfg.latchGated = false) : projected (takeSample c s) := by
  have always : projects s c = true := by simp [projects, ungated]
  simp [projected, takeSample, always]

theorem projected_resetBlock (a b : Bool) (s : State) : projected (resetBlock a b s) :=
  show (0 : Int) = asr 0 2 by decide

theorem projected_agentEffect (a : AgentStep) (s : State) (ungated : s.cfg.latchGated = false) (h : projected s) :
    projected (agentEffect a s) := by
  by_cases update : a = .encwUpdate
  · subst update
    have sampled : projected (sampleEncoder s) := by
      obtain same | taken := sampleEncoder_cases s
      · rw [same]
        exact h
      · rw [taken]
        exact projected_takeSample _ s ungated
    exact sampled
  · by_cases reset : isReset a.toInstr = true
    · cases a
      case reset a b => exact projected_resetBlock a b s
      all_goals cases reset
    · obtain ⟨raw, ext, mode⟩ := agentEffect_position a s update (Bool.eq_false_of_not_eq_true reset)
      exact projected_of_eq h raw ext (by rw [mode])

/-- Settles O41: the two writers of the counter project it, a reset zeroes both positions, and nothing else moves either. -/
theorem projectionIsKept : Obligations.ProjectionIsKept := by
  intro i s t ungated proj h keeps
  obtain reset | shift := keeps
  · obtain ⟨a, b, rfl⟩ := eq_reset_of_isReset i reset
    rw [exec_reset_next a b s t h]
    exact projected_resetBlock a b s
  · obtain ⟨v, rfl⟩ | ⟨r, v, rfl⟩ | rfl | ⟨a, -, rfl⟩ := exec_next_cases i s t h
    · exact proj
    · exact projected_writeReg r v s proj shift
    · exact proj
    · rw [afterTurn_eq]
      split
      · exact projected_agentEffect a s ungated proj
      · exact proj

/-! ### The length of the strip (10_state.md R42) -/

theorem agentEffect_cfg (a : AgentStep) (s : State) : (agentEffect a s).cfg = s.cfg := by
  cases a
  case syncA => exact syncPadA_cfg s
  case syncB => exact syncPadB_cfg s
  case ledwTx => exact transmit_cfg s
  case encwUpdate => exact sampleEncoder_cfg s
  all_goals rfl

/-- No operation changes the configuration (10_state.md R20). -/
theorem exec_cfg (i : Instr) (s t : State) (h : exec i s = .next t) : t.cfg = s.cfg := by
  obtain ⟨v, rfl⟩ | ⟨r, v, rfl⟩ | rfl | ⟨a, -, rfl⟩ := exec_next_cases i s t h
  · rfl
  · exact writeReg_cfg r v s
  · rfl
  · rw [afterTurn_eq]
    split
    · exact agentEffect_cfg a s
    · rfl

theorem setOne_len (c : Colour) (s : State) : (setOne c s).len = s.len := by
  unfold setOne
  split
  · exact List.length_set
  · rfl

/-- A set all takes at most as many colours as the strip has (42_led_encoder.md R202). -/
theorem setAll_len_le (k : Word) (s : State) : (setAll k s).len ≤ s.len := by
  unfold setAll
  split
  · exact le_rfl
  · next fits =>
    calc (s.stage.take k.toNat).length
      _ ≤ k.toNat := List.length_take_le _ _
      _ ≤ s.len := not_lt.1 fits

theorem writeReg_len_le (r : RegName) (v : Word) (s : State) : (writeReg r v s).len ≤ s.len := by
  cases r
  case ledSetOne => exact (setOne_len _ s).le
  case ledSetAll => exact setAll_len_le v s
  case ledStage i => simp only [writeReg]; split <;> exact le_rfl
  all_goals exact le_rfl

/-- No agent step but a reset touches the strip. -/
theorem agentEffect_buf (a : AgentStep) (s : State) (notReset : isReset a.toInstr = false) : (agentEffect a s).buf = s.buf := by
  cases a
  case syncA => exact syncPadA_buf s
  case syncB => exact syncPadB_buf s
  case ledwTx => exact transmit_buf s
  case encwUpdate => exact sampleEncoder_buf s
  case reset a b => cases notReset
  all_goals rfl

theorem exec_len_le (i : Instr) (s t : State) (notReset : isReset i = false) (h : exec i s = .next t) : t.len ≤ s.len := by
  obtain ⟨v, rfl⟩ | ⟨r, v, rfl⟩ | rfl | ⟨a, rfl, rfl⟩ := exec_next_cases i s t h
  · exact le_rfl
  · exact writeReg_len_le r v s
  · exact le_rfl
  · rw [afterTurn_eq]
    split
    · exact (congrArg List.length (agentEffect_buf a s notReset)).le
    · exact le_rfl

/-- After a reset the strip is as long as it can be (70_reset_and_hazards.md R280). -/
theorem resetBlock_len (a b : Bool) (s : State) : (resetBlock a b s).len = s.cfg.ledCap := List.length_replicate

/-- Settles O38: a set all shrinks the strip, a reset restores it to `LED_CAP`, and nothing else changes its length. -/
theorem lengthNeverGrows : Obligations.LengthNeverGrows := by
  intro i s t h
  refine ⟨exec_cfg i s t h, fun notReset => exec_len_le i s t notReset h, fun within => ?_⟩
  rw [exec_cfg i s t h]
  cases reset : isReset i with
  | true =>
    obtain ⟨a, b, rfl⟩ := eq_reset_of_isReset i reset
    rw [exec_reset_next a b s t h]
    exact (resetBlock_len a b s).le
  | false => exact (exec_len_le i s t reset h).trans within

end Sys2Proof

/-!
SUPPORT. The memory family: what a presented transaction does, decoded by its command and its offset; the register map behind the
rows; the byte lanes of a bridge; what the host reads back; and what a frame on the wire is safe from.
-/

namespace Sys2Proof

open Sys2Proof.Machine

/-! ### Refused transactions (20_memory.md R63, 60_exceptions.md R254, R257) -/

/-- Settles O17: the five refused rows look at nothing. -/
theorem refusedRowsStop : Obligations.RefusedRowsStop := fun _ _ _ _ => ⟨rfl, rfl, rfl, rfl, rfl⟩

/-- A reserved command is refused whatever its offset (60_exceptions.md R257). -/
theorem exec_decodeFields_reserved (cmd : BitVec 4) (off : Off) (d : Word) (s : State) (reserved : 2 ≤ cmd.toNat) :
    exec (decodeFields cmd off d) s = .refused .reservedCommand := by
  unfold decodeFields
  split
  · rfl
  · split
    · rfl
    · rfl

/-- A read or a write of a misaligned offset is refused. -/
theorem exec_decodeFields_misaligned (cmd : BitVec 4) (off : Off) (d : Word) (s : State) (access : cmd.toNat < 2)
    (misaligned : aligned off = false) : exec (decodeFields cmd off d) s = .refused .misaligned := by
  unfold decodeFields
  rw [if_neg (by omega), if_neg (by omega), if_neg (by omega)]
  split
  · rfl
  · next even =>
    have bit1 : off.getLsbD 1 = true := by
      by_contra low
      have clear := (aligned_iff_bits off).2 ⟨Bool.eq_false_of_not_eq_true even, Bool.eq_false_of_not_eq_true low⟩
      exact absurd (clear.symm.trans misaligned) (by decide)
    rw [if_pos bit1]
    rfl

/-! ### The register map behind the rows (30_encoding.md R92, R100) -/

/-- The listed offsets are those of the registers outside the array windows. -/
theorem namedOffsets_eq_map : namedOffsets = namedRegs.map RegName.offset := rfl

theorem regAt_stage (c : Config) (off : Off) (window : off.extractLsb' 10 2 = 1) :
    regAt c off = if elementMapped c (indexOf off) then some (.ledStage (indexOf off)) else none := if_pos window

theorem regAt_buf (c : Config) (off : Off) (window : off.extractLsb' 10 2 = 2) :
    regAt c off = if elementMapped c (indexOf off) then some (.ledBuf (indexOf off)) else none := by
  rw [regAt, window]
  rfl

theorem regAt_named (c : Config) (off : Off) (outside : inWindow off = false) :
    regAt c off = namedRegs.find? (fun r => r.offset == off) := by
  obtain ⟨notStage, notBuf⟩ : off.extractLsb' 10 2 ≠ 1 ∧ off.extractLsb' 10 2 ≠ 2 := by simpa [inWindow] using outside
  rw [regAt, if_neg notStage, if_neg notBuf]

/-- The rows of a register outside the array windows are its read and its write. -/
theorem exec_decodeNamed_offset (r : RegName) (named : r ∈ namedRegs) (d : Word) (s : State) :
    exec (decodeNamedRead r.offset d) s = hostRead r s ∧ exec (decodeNamedWrite r.offset d) s = hostWrite r d s := by
  cases r
  case ledStage i => simp [namedRegs] at named
  case ledBuf i => simp [namedRegs] at named
  all_goals exact ⟨rfl, rfl⟩

/-- An array element that does not exist is accessed as an unmapped offset is (30_encoding.md R100). -/
theorem host_element_unmapped (i : BitVec 8) (d : Word) (s : State) (beyond : elementMapped s.cfg i = false) :
    (hostRead (.ledStage i) s = hostReadUnmapped s ∧ hostWrite (.ledStage i) d s = hostWriteUnmapped s) ∧
    hostRead (.ledBuf i) s = hostReadUnmapped s := by
  simp [hostRead, hostWrite, hostReadUnmapped, hostWriteUnmapped, readReg, writeReg, beyond]

/-- The read and the write of an offset are those of the register it names, or of an unmapped offset when it names none. -/
def accessesRegAt (off : Off) (d : Word) (s : State) : Option RegName → Prop
  | some r => exec (decodeFields 0 off d) s = hostRead r s ∧ exec (decodeFields 1 off d) s = hostWrite r d s
  | none => exec (decodeFields 0 off d) s = hostReadUnmapped s ∧ exec (decodeFields 1 off d) s = hostWriteUnmapped s

theorem accessesRegAt_stage (off : Off) (d : Word) (s : State) (hal : aligned off = true) (window : off.extractLsb' 10 2 = 1) :
    accessesRegAt off d s (regAt s.cfg off) := by
  obtain ⟨read, write⟩ := decodeFields_stageOff (indexOf off) d
  rw [stageOff_indexOf off hal window] at read write
  rw [regAt_stage s.cfg off window]
  split
  · exact ⟨by rw [read]; rfl, by rw [write]; rfl⟩
  · next beyond =>
    obtain ⟨⟨noRead, noWrite⟩, -⟩ := host_element_unmapped (indexOf off) d s (Bool.eq_false_of_not_eq_true beyond)
    exact ⟨by rw [read]; exact noRead, by rw [write]; exact noWrite⟩

theorem accessesRegAt_buf (off : Off) (d : Word) (s : State) (hal : aligned off = true) (window : off.extractLsb' 10 2 = 2) :
    accessesRegAt off d s (regAt s.cfg off) := by
  obtain ⟨read, write⟩ := decodeFields_bufOff (indexOf off) d
  rw [bufOff_indexOf off hal window] at read write
  rw [regAt_buf s.cfg off window]
  split
  · exact ⟨by rw [read]; rfl, by rw [write]; rfl⟩
  · next beyond =>
    obtain ⟨-, noRead⟩ := host_element_unmapped (indexOf off) d s (Bool.eq_false_of_not_eq_true beyond)
    exact ⟨by rw [read]; exact noRead, by rw [write]; rfl⟩

theorem accessesRegAt_named (off : Off) (d : Word) (s : State) (hal : aligned off = true) (outside : inWindow off = false) :
    accessesRegAt off d s (regAt s.cfg off) := by
  rw [regAt_named s.cfg off outside]
  cases found : namedRegs.find? fun r => r.offset == off with
  | some r =>
    have offset : r.offset = off := by simpa using List.find?_some found
    obtain ⟨read, write⟩ := decodeFields_named off d hal outside
    obtain ⟨execRead, execWrite⟩ := exec_decodeNamed_offset r (List.mem_of_find?_eq_some found) d s
    rw [offset] at execRead execWrite
    exact ⟨by rw [read, execRead], by rw [write, execWrite]⟩
  | none =>
    have unlisted : namedOffsets.contains off = false := by
      have differs : ∀ r ∈ namedRegs, r.offset ≠ off := fun r hr => by simpa using List.find?_eq_none.1 found r hr
      rw [namedOffsets_eq_map, Bool.eq_false_iff, Ne, List.contains_iff_mem, List.mem_map]
      exact fun ⟨r, named, offset⟩ => differs r named offset
    obtain ⟨read, write⟩ := decodeFields_unmapped off d (by rw [isUnmapped, hal, outside, unlisted]; rfl)
    exact ⟨by rw [read]; rfl, by rw [write]; rfl⟩

/-- A read and a write of an aligned offset are those of the register it names. -/
theorem accessesRegAt_of_aligned (off : Off) (d : Word) (s : State) (hal : aligned off = true) :
    accessesRegAt off d s (regAt s.cfg off) := by
  cases outside : inWindow off with
  | false => exact accessesRegAt_named off d s hal outside
  | true =>
    obtain window | window : off.extractLsb' 10 2 = 1 ∨ off.extractLsb' 10 2 = 2 := by simpa [inWindow] using outside
    · exact accessesRegAt_stage off d s hal window
    · exact accessesRegAt_buf off d s hal window

/-! ### The access primitives (20_memory.md R62) -/

theorem memRead_misaligned (off : Off) (s : State) (misaligned : aligned off = false) : memRead off s = .error .misaligned := by
  rw [memRead, misaligned]
  rfl

theorem memWrite_misaligned (off : Off) (v : Word) (s : State) (misaligned : aligned off = false) :
    memWrite off v s = .error .misaligned := by
  rw [memWrite, misaligned]
  rfl

theorem memRead_mapped (off : Off) (s : State) (r : RegName) (hal : aligned off = true) (named : regAt s.cfg off = some r) :
    memRead off s = .ok (readReg r s) := by
  rw [memRead, if_pos hal, named]

theorem memRead_unmapped (off : Off) (s : State) (hal : aligned off = true) (unnamed : regAt s.cfg off = none) :
    memRead off s = .ok 0 := by
  rw [memRead, if_pos hal, unnamed]

theorem memWrite_mapped (off : Off) (v : Word) (s : State) (r : RegName) (hal : aligned off = true)
    (named : regAt s.cfg off = some r) : memWrite off v s = .ok (writeReg r v s) := by
  rw [memWrite, if_pos hal, named]

theorem memWrite_unmapped (off : Off) (v : Word) (s : State) (hal : aligned off = true) (unnamed : regAt s.cfg off = none) :
    memWrite off v s = .ok s := by
  rw [memWrite, if_pos hal, unnamed]

/-- Settles O18: both sides follow the alignment of the offset and then the register it names. -/
theorem busAccessesAreMemAccesses : Obligations.BusAccessesAreMemAccesses := by
  intro off d s
  rw [decode_txWord, decode_txWord]
  cases hal : aligned off with
  | false =>
    rw [memRead_misaligned off s hal, memWrite_misaligned off d s hal]
    exact ⟨exec_decodeFields_misaligned 0 off d s (by decide) hal, exec_decodeFields_misaligned 1 off d s (by decide) hal⟩
  | true =>
    have accesses := accessesRegAt_of_aligned off d s hal
    cases reg : regAt s.cfg off with
    | some r =>
      rw [reg] at accesses
      rw [memRead_mapped off s r hal reg, memWrite_mapped off d s r hal reg]
      exact accesses
    | none =>
      rw [reg] at accesses
      rw [memRead_unmapped off s hal reg, memWrite_unmapped off d s hal reg]
      exact accesses

/-- A read or a write of an aligned offset completes and leaves the later moves alone. -/
theorem exec_decodeFields_completes (cmd : BitVec 4) (off : Off) (d : Word) (s : State) (access : cmd.toNat < 2)
    (hal : aligned off = true) : ∃ t, exec (decodeFields cmd off d) s = .next t ∧ t.agenda = s.agenda := by
  have accesses := accessesRegAt_of_aligned off d s hal
  generalize regAt s.cfg off = reg at accesses
  obtain rfl | rfl : cmd = 0 ∨ cmd = 1 := by revert cmd; decide
  · cases reg with
    | some r => exact ⟨_, accesses.1, rfl⟩
    | none => exact ⟨_, accesses.1, rfl⟩
  · cases reg with
    | some r => exact ⟨_, accesses.2, writeReg_agenda r d s⟩
    | none => exact ⟨_, accesses.2, rfl⟩

/-- A presented transaction word runs as its fields decode, with the later moves left on the agenda. -/
theorem step_txWord (cmd : BitVec 4) (off : Off) (d : Word) (s : State) (ms : List Move) :
    step { s with agenda := .bus (txWord cmd off d) :: ms } = exec (decodeFields cmd off d) { s with agenda := ms } :=
  congrArg (fun i => exec i { s with agenda := ms }) (decode_txWord cmd off d)

/-- Settles O16: the three cases of a decoded transaction. -/
theorem refusedTransactions : Obligations.RefusedTransactions := by
  intro cmd off d s ms
  rw [step_txWord]
  refine ⟨exec_decodeFields_reserved cmd off d _, fun access odd => ?_, fun access even => ?_⟩
  · exact exec_decodeFields_misaligned cmd off d _ access (Bool.eq_false_of_not_eq_true (mt (aligned_iff_mod off).1 odd))
  · exact exec_decodeFields_completes cmd off d _ access ((aligned_iff_mod off).2 even)

/-- Settles O15: an unmapped offset decodes to the unmapped rows, which answer 0 and nothing. -/
theorem unmappedAccesses : Obligations.UnmappedAccesses := by
  intro off d s
  rw [decode_txWord, decode_txWord]
  exact ⟨decodeFields_unmapped off d, rfl, rfl⟩

/-! ### Writes of read-only registers (30_encoding.md R92, R102) -/

theorem writeReg_readOnly (r : RegName) (v : Word) (s : State) (readOnly : r.access = .ro) : writeReg r v s = s := by
  cases r
  case encCtrl | encMin | encMax | encPos | efEnc | efLed | ledIndex | ledSetOne | ledSetAll | ledStage => cases readOnly
  all_goals rfl

theorem hostWrite_readOnly (r : RegName) (v : Word) (s : State) (readOnly : r.access = .ro) :
    hostWrite r v s = .next { s with rdata := none } := by
  rw [hostWrite, writeReg_readOnly r v s readOnly]

/-- The write row of a read-only register ignores the write. -/
theorem writesAs_readOnly (r : RegName) (i : Word → Instr) (readOnly : r.access = .ro)
    (word : ∀ d, encode (i d) = some (txWord 1 r.offset d)) (arm : ∀ d s, exec (i d) s = hostWrite r d s) :
    WritesAs r.offset i (fun _ s => s) :=
  fun d s => ⟨word d, (arm d s).trans (hostWrite_readOnly r d s readOnly)⟩

/-- Settles O14: each row is the write of a read-only register. -/
theorem readOnlyWritesIgnored : Obligations.ReadOnlyWritesIgnored := by
  refine ⟨writesAs_readOnly .encRaw _ rfl ?_ ?_, writesAs_readOnly .encPosPrev _ rfl ?_ ?_,
    writesAs_readOnly .encStatus _ rfl ?_ ?_, writesAs_readOnly .encTLast _ rfl ?_ ?_,
    writesAs_readOnly .encTPrev _ rfl ?_ ?_, writesAs_readOnly .encSeq _ rfl ?_ ?_,
    writesAs_readOnly .time _ rfl ?_ ?_, writesAs_readOnly .efEncLast _ rfl ?_ ?_,
    writesAs_readOnly .efLedLast _ rfl ?_ ?_, writesAs_readOnly .ledLen _ rfl ?_ ?_,
    writesAs_readOnly .ledCap _ rfl ?_ ?_, writesAs_readOnly .ledResult _ rfl ?_ ?_,
    writesAs_readOnly .ledStatus _ rfl ?_ ?_, fun i v s =>
      ⟨congrArg (fun off => some (txWord 1 off v)) (bufOff_eq i), hostWrite_readOnly (.ledBuf i) v s rfl⟩⟩
  all_goals intros; rfl

/-! ### The byte lanes of a bridge (20_memory.md R64) -/

/-- Clearing the two low bits of an offset rounds it down to a multiple of 4. -/
theorem toNat_and_0xFFC (x : Off) : (x &&& 0xFFC).toNat = x.toNat / 4 * 4 := by
  have cleared : x &&& 0xFFC = x.extractLsb' 2 10 ++ 0#2 := by
    calc x &&& 0xFFC
      _ = (x.extractLsb' 2 10 ++ x.extractLsb' 0 2) &&& (BitVec.allOnes 10 ++ 0#2) :=
        congrArg (· &&& 0xFFC) (BitVec.extractLsb'_append_extractLsb' (w := 10) (len := 2)).symm
      _ = x.extractLsb' 2 10 ++ 0#2 := by rw [BitVec.and_append, BitVec.and_allOnes, BitVec.and_zero]
  have bound := x.isLt
  calc (x &&& 0xFFC).toNat
    _ = (x.extractLsb' 2 10).toNat <<< 2 ||| 0 := by rw [cleared]; exact BitVec.toNat_append ..
    _ = x.toNat / 4 * 4 := by
      rw [Nat.or_zero, Nat.shiftLeft_eq, BitVec.extractLsb'_toNat, Nat.shiftRight_eq_div_pow]
      omega

/-- The byte address `off + k` of an aligned offset lies in the register at `off`, in its lane `k`. -/
theorem byteAddress_lane (off : Off) (k : Nat) (hal : aligned off = true) (lane : k < 4) :
    (off + BitVec.ofNat 12 k) &&& 0xFFC = off ∧ (off + BitVec.ofNat 12 k).toNat % 4 = k := by
  have even := (aligned_iff_mod off).1 hal
  have bound := off.isLt
  have sum : (off + BitVec.ofNat 12 k).toNat = off.toNat + k := by
    rw [BitVec.toNat_add, BitVec.toNat_ofNat]
    omega
  refine ⟨BitVec.eq_of_toNat_eq ?_, by omega⟩
  rw [toNat_and_0xFFC, sum]
  omega

theorem aligned_of_memRead_ok (off : Off) (s : State) (v : Word) (read : memRead off s = .ok v) : aligned off = true := by
  by_contra misaligned
  rw [memRead_misaligned off s (Bool.eq_false_of_not_eq_true misaligned)] at read
  cases read

/-- Settles O19: the byte address is rounded down to the register read, and its low bits are the lane. -/
theorem windowByteLanes : Obligations.WindowByteLanes := by
  intro off s v k read lane
  obtain ⟨register, low⟩ := byteAddress_lane off k (aligned_of_memRead_ok off s v read) lane
  rw [windowByte, register, low, read]

/-! ### Elements that only the host writes (20_memory.md R70) -/

/-- The registers whose elements only the host writes: the read-write ones that no agent step touches. -/
def hostSet : RegName → Bool
  | .encCtrl | .encMin | .encMax | .ledIndex | .ledStage _ => true
  | _ => false

/-- What those registers are read from. -/
def hostElements (s : State) : Config × (Bool × LatchMode × Bool) × (Int × Int) × Word × List Colour :=
  (s.cfg, (s.en, s.latchMode, s.clampEn), (s.minPos, s.maxPos), s.index, s.stage)

theorem readReg_of_hostElements (r : RegName) (owned : hostSet r = true) (s t : State) (same : hostElements t = hostElements s) :
    readReg r t = readReg r s := by
  simp only [hostElements, Prod.mk.injEq] at same
  obtain ⟨cfg, ⟨en, mode, clamp⟩, ⟨lo, hi⟩, index, stage⟩ := same
  cases r
  case encCtrl => simp only [readReg, ctrlWord, en, mode, clamp]
  case encMin => simp only [readReg, lo]
  case encMax => simp only [readReg, hi]
  case ledIndex => exact index
  case ledStage i => simp only [readReg, cfg, stage]
  all_goals cases owned

theorem hostElements_agentEffect (a : AgentStep) (s : State) (notReset : isReset a.toInstr = false) :
    hostElements (agentEffect a s) = hostElements s := by
  cases a
  case syncA => simp [agentEffect, hostElements]
  case syncB => simp [agentEffect, hostElements]
  case encwUpdate => simp [agentEffect, hostElements]
  case ledwTx => simp [agentEffect, hostElements]
  case reset a b => cases notReset
  all_goals rfl

theorem hostElements_afterTurn (a : AgentStep) (s : State) (notReset : isReset a.toInstr = false) :
    hostElements (afterTurn a s) = hostElements s := by
  rw [afterTurn_eq]
  split
  · exact hostElements_agentEffect a s notReset
  · rfl

theorem hostElements_afterTurns (as : List AgentStep) (s : State) (noReset : ∀ a ∈ as, isReset a.toInstr = false) :
    hostElements (afterTurns as s) = hostElements s := by
  induction as generalizing s with
  | nil => rfl
  | cons a as ih =>
    obtain ⟨notReset, noReset⟩ := List.forall_mem_cons.1 noReset
    exact (ih (afterTurn a s) noReset).trans (hostElements_afterTurn a s notReset)

/-! ### Sequences of operations -/

theorem execAll_cons (i : Instr) (is : List Instr) (s t : State) (first : exec i s = .next t) :
    execAll (i :: is) s = execAll is t := by
  rw [execAll, first]

theorem execAll_turns (as : List AgentStep) (is : List Instr) (s : State) :
    execAll (as.map AgentStep.toInstr ++ is) s = execAll is (afterTurns as s) := by
  induction as generalizing s with
  | nil => rfl
  | cons a as ih =>
    have turn : exec a.toInstr s = .next (afterTurn a s) := by rw [exec_toInstr, agentTurn_next, afterTurn_eq]
    exact (execAll_cons _ _ _ _ turn).trans (ih (afterTurn a s))

/-- A host write, turns of the other agents without a reset, and a host read of the same register: the read returns what the
register reads right after the write. -/
theorem read_after_write (r : RegName) (owned : hostSet r = true) (w rd : Instr) (v : Word) (s : State) (as : List AgentStep)
    (noReset : ∀ a ∈ as, isReset a.toInstr = false) (write : exec w s = hostWrite r v s)
    (read : ∀ t, exec rd t = hostRead r t) :
    ∃ t, execAll (w :: as.map AgentStep.toInstr ++ [rd]) s = .next t ∧ t.rdata = some (readReg r (writeReg r v s)) := by
  have kept : readReg r (afterTurns as { writeReg r v s with rdata := none }) = readReg r (writeReg r v s) :=
    readReg_of_hostElements r owned _ _ (hostElements_afterTurns as _ noReset)
  have runs : execAll (w :: as.map AgentStep.toInstr ++ [rd]) s =
      hostRead r (afterTurns as { writeReg r v s with rdata := none }) := by
    rw [List.cons_append, execAll_cons w _ s _ write, execAll_turns, execAll_cons rd [] _ _ (read _)]
    rfl
  exact ⟨_, runs, congrArg some kept⟩

/-! ### What a host-set register reads right after a write -/

/-- The mode a control word leaves: its own, or the old one for the reserved code 3 (41_quadrature_decoder.md R161). -/
theorem latchModeCode_written (m : BitVec 2) (old : LatchMode) :
    (latchModeCode ((latchModeOf m).getD old)).toNat = if m = 3 then (latchModeCode old).toNat else m.toNat := by
  cases old <;> revert m <;> decide

/-- The read of a position that was written: the low bits of the word, sign-extended (30_encoding.md R94). -/
theorem u32_sextN (n : Nat) (v : Word) (hn : 1 ≤ n) : u32 (sextN n v) = (v.setWidth n).signExtend 32 := by
  rw [u32, sextN, truncN_eq_bmod n _ hn, BitVec.signExtend, BitVec.toInt_setWidth]

/-- A colour word read back has lost its three high bits (30_encoding.md R97). -/
theorem colourWord_colourOfWord (v : Word) : colourWord (colourOfWord v) = v &&& 0x1FFFFFFF := by
  apply BitVec.eq_of_toNat_eq
  have mask : v.toNat &&& 0x1FFFFFFF = v.toNat % 2 ^ 29 := Nat.and_two_pow_sub_one_eq_mod _ 29
  rw [BitVec.toNat_and, show (0x1FFFFFFF : Word).toNat = 0x1FFFFFFF from rfl, mask]
  simp only [colourWord, colourOfWord, BitVec.toNat_ofNat, BitVec.extractLsb'_toNat, Nat.shiftRight_eq_div_pow]
  omega

theorem readReg_stage_written (i : BitVec 8) (v : Word) (s : State) (mapped : i.toNat < s.cfg.ledCap)
    (stored : i.toNat < s.stage.length) : readReg (.ledStage i) (writeReg (.ledStage i) v s) = v &&& 0x1FFFFFFF := by
  simp [readReg, writeReg, elementMapped, mapped, stored, colourWord_colourOfWord]

theorem readReg_stage_dropped (i : BitVec 8) (v : Word) (s : State)
    (dropped : s.cfg.ledCap ≤ i.toNat ∨ s.stage.length ≤ i.toNat) : readReg (.ledStage i) (writeReg (.ledStage i) v s) = 0 := by
  by_cases mapped : i.toNat < s.cfg.ledCap
  · have beyond : s.stage.length ≤ i.toNat := by omega
    simp [readReg, writeReg, elementMapped, mapped, beyond]
  · simp [readReg, writeReg, elementMapped, mapped]

/-- Settles O42: the read returns what the register reads right after the write, register by register. -/
theorem readBackAfterWrite : Obligations.ReadBackAfterWrite := by
  intro v d i s as legal noReset
  have back : ∀ (r : RegName) (w rd : Instr) (x : Word), hostSet r = true → exec w s = hostWrite r v s →
      (∀ t, exec rd t = hostRead r t) → readReg r (writeReg r v s) = x →
      ∃ t, execAll (w :: as.map AgentStep.toInstr ++ [rd]) s = .next t ∧ t.rdata = some x := by
    rintro r w rd x owned write read rfl
    exact read_after_write r owned w rd v s as noReset write read
  have ctrl : readReg .encCtrl (writeReg .encCtrl v s) = BitVec.ofNat 32 ((ctrlEn v).toNat +
      2 * (if ctrlMode v = 3 then (latchModeCode s.latchMode).toNat else (ctrlMode v).toNat) + 8 * (ctrlClamp v).toNat) := by
    rw [← latchModeCode_written]
    rfl
  have bound := u32_sextN s.cfg.rawW v (rawW_pos _ legal)
  exact ⟨back .encCtrl _ _ _ rfl rfl (fun _ => rfl) ctrl, back .encMin _ _ _ rfl rfl (fun _ => rfl) bound,
    back .encMax _ _ _ rfl rfl (fun _ => rfl) bound, back .ledIndex _ _ _ rfl rfl (fun _ => rfl) rfl,
    fun mapped stored => back (.ledStage i) _ _ _ rfl rfl (fun _ => rfl) (readReg_stage_written i v s mapped stored),
    fun dropped => back (.ledStage i) _ _ _ rfl rfl (fun _ => rfl) (readReg_stage_dropped i v s dropped)⟩

/-! ### A frame being sent (20_memory.md R73, 70_reset_and_hazards.md R290) -/

/-- `t` has the transmitter of `s`: the frame, the position in it, the pins, the trace and the phase of LEDW. -/
def sameTransmitter (s t : State) : Prop :=
  t.txFrame = s.txFrame ∧ t.txPos = s.txPos ∧ t.dataPin = s.dataPin ∧ t.clkPin = s.clkPin ∧ t.trace = s.trace ∧
  t.ledwPh = s.ledwPh

theorem sameTransmitter_refl (s : State) : sameTransmitter s s := ⟨rfl, rfl, rfl, rfl, rfl, rfl⟩

theorem sameTransmitter_writeReg (r : RegName) (v : Word) (s : State) : sameTransmitter s (writeReg r v s) :=
  ⟨writeReg_txFrame r v s, writeReg_txPos r v s, writeReg_dataPin r v s, writeReg_clkPin r v s, writeReg_trace r v s,
    writeReg_ledwPh r v s⟩

/-- In TX the other steps of LEDW are not enabled, and no other agent's step but a reset touches the transmitter. -/
theorem sameTransmitter_agentEffect (a : AgentStep) (s : State) (sending : s.ledwPh = .tx) (en : enabled a s = true)
    (notTx : a ≠ .ledwTx) (notReset : isReset a.toInstr = false) : sameTransmitter s (agentEffect a s) := by
  cases a
  case syncA => simp [sameTransmitter, agentEffect]
  case syncB => simp [sameTransmitter, agentEffect]
  case encwUpdate => simp [sameTransmitter, agentEffect]
  case ledwConsumeRead => simp [enabled, sending] at en
  case ledwConsumeClear => simp [enabled, sending] at en
  case ledwStart => simp [enabled, sending] at en
  case ledwTx => exact absurd rfl notTx
  case reset a b => cases notReset
  all_goals exact sameTransmitter_refl s

/-- Settles O43: host transactions and the steps of the other agents leave the transmitter alone. -/
theorem frameIsASnapshot : Obligations.FrameIsASnapshot := by
  intro i s t next sending notTx notReset
  have kept : sameTransmitter s t := by
    obtain ⟨v, rfl⟩ | ⟨r, v, rfl⟩ | rfl | ⟨a, rfl, rfl⟩ := exec_next_cases i s t next
    · exact sameTransmitter_refl s
    · exact sameTransmitter_writeReg r v s
    · exact sameTransmitter_refl s
    · rw [afterTurn_eq]
      split
      · next en => exact sameTransmitter_agentEffect a s sending en (fun tx => notTx (tx ▸ rfl)) notReset
      · exact sameTransmitter_refl s
  obtain ⟨frame, pos, data, clk, trace, phase⟩ := kept
  exact ⟨frame, pos, data, clk, trace, phase.trans sending⟩

end Sys2Proof

/-!
SUPPORT. The encoding family: the rows a transaction word can decode to, and the word of each; runs of internal steps and `settle`;
a walk over the levels of the pads; what the registers read right after a reset.
-/

namespace Sys2Proof

open Sys2Proof.Machine

/-! ### The round trip of the decoder (30_encoding.md R90, R92, R100, R101, R102) -/

/-- Settles O20: it is the round trip that `step` rests on. -/
theorem decodeEncode : Obligations.DecodeEncode := decode_encode

/-- An operation has no word exactly when it is an agent's step. -/
theorem encode_eq_none_iff (i : Instr) : encode i = none ↔ i.isAgentStep = true := by
  constructor
  · intro noWord
    cases i
    case envPads | syncA | syncB | encwConsumeRead | encwConsumeClear | encwUpdate => rfl
    case ledwConsumeRead | ledwConsumeClear | ledwStart | ledwTx | tick | reset => rfl
    all_goals cases noWord
  · intro agent
    obtain ⟨a, rfl⟩ := eq_toInstr_of_isAgentStep i agent
    cases a <;> rfl

/-- Settles O22. -/
theorem agentStepsHaveNoWord : Obligations.AgentStepsHaveNoWord := encode_eq_none_iff

/-- `i` is a well-formed operation whose word has these three fields. -/
def isRowOf (cmd : BitVec 4) (off : Off) (d : Word) (i : Instr) : Prop :=
  i.wf = true ∧ encode i = some (txWord cmd off d)

theorem isRowOf_unmapped (off : Off) (d : Word) (h : isUnmapped off = true) :
    isRowOf 0 off d (.rdUnmapped off d) ∧ isRowOf 1 off d (.wrUnmapped off d) :=
  ⟨⟨h, rfl⟩, ⟨h, rfl⟩⟩

/-- The rows of a register outside the array windows. -/
theorem isRowOf_decodeNamed_offset (r : RegName) (named : r ∈ namedRegs) (d : Word) :
    isRowOf 0 r.offset d (decodeNamedRead r.offset d) ∧ isRowOf 1 r.offset d (decodeNamedWrite r.offset d) := by
  cases r
  case ledStage i => simp [namedRegs] at named
  case ledBuf i => simp [namedRegs] at named
  all_goals exact ⟨⟨rfl, rfl⟩, ⟨rfl, rfl⟩⟩

/-- Outside the array windows an aligned offset is listed in the register map or unmapped. -/
theorem isRowOf_decodeNamed (off : Off) (d : Word) (hal : aligned off = true) (outside : inWindow off = false) :
    isRowOf 0 off d (decodeNamedRead off d) ∧ isRowOf 1 off d (decodeNamedWrite off d) := by
  cases listed : namedOffsets.contains off with
  | true =>
    rw [namedOffsets_eq_map, List.contains_iff_mem, List.mem_map] at listed
    obtain ⟨r, named, rfl⟩ := listed
    exact isRowOf_decodeNamed_offset r named d
  | false =>
    rw [decodeNamedRead_unlisted off d listed, decodeNamedWrite_unlisted off d listed]
    exact isRowOf_unmapped off d (by rw [isUnmapped, hal, outside, listed]; rfl)

/-- An aligned offset of an array window is the offset of its element. -/
theorem isRowOf_window (off : Off) (d : Word) (hal : aligned off = true) (inside : inWindow off = true) :
    isRowOf 0 off d (decodeFields 0 off d) ∧ isRowOf 1 off d (decodeFields 1 off d) := by
  obtain stage | buf : off.extractLsb' 10 2 = 1 ∨ off.extractLsb' 10 2 = 2 := by simpa [inWindow] using inside
  · obtain ⟨read, write⟩ := decodeFields_stageOff (indexOf off) d
    rw [← stageOff_indexOf off hal stage, read, write]
    exact ⟨⟨rfl, rfl⟩, ⟨rfl, rfl⟩⟩
  · obtain ⟨read, write⟩ := decodeFields_bufOff (indexOf off) d
    rw [← bufOff_indexOf off hal buf, read, write]
    exact ⟨⟨rfl, rfl⟩, ⟨rfl, rfl⟩⟩

/-- A read or a write of an aligned offset decodes to a row of that very offset. -/
theorem isRowOf_decodeFields_aligned (off : Off) (d : Word) (hal : aligned off = true) :
    isRowOf 0 off d (decodeFields 0 off d) ∧ isRowOf 1 off d (decodeFields 1 off d) := by
  cases window : inWindow off with
  | true => exact isRowOf_window off d hal window
  | false =>
    obtain ⟨read, write⟩ := decodeFields_named off d hal window
    rw [read, write]
    exact isRowOf_decodeNamed off d hal window

/-- A read or a write of a misaligned offset decodes to the row of its lowest bit that is set. -/
theorem isRowOf_decodeFields_misaligned (cmd : BitVec 4) (off : Off) (d : Word) (access : cmd = 0 ∨ cmd = 1)
    (misaligned : aligned off = false) : isRowOf cmd off d (decodeFields cmd off d) := by
  obtain ⟨lt8, lt4, lt2⟩ := cmd_lt_two cmd access
  have accessBits : (cmd == 0 || cmd == 1) = true := by simpa only [Bool.or_eq_true, beq_iff_eq] using access
  rw [decodeFields, if_neg lt8, if_neg lt4, if_neg lt2]
  cases bit0 : off.getLsbD 0 with
  | true => exact ⟨by rw [if_pos rfl, Instr.wf, accessBits, bit0]; rfl, rfl⟩
  | false =>
    cases bit1 : off.getLsbD 1 with
    | true => exact ⟨by rw [if_neg (by decide), if_pos rfl, Instr.wf, accessBits, bit0, bit1]; rfl, rfl⟩
    | false =>
      have hal := (aligned_iff_bits off).2 ⟨bit0, bit1⟩
      exact absurd (hal.symm.trans misaligned) (by decide)

/-- A reserved command decodes to the row of its range, whatever the offset is. -/
theorem isRowOf_decodeFields_reserved (cmd : BitVec 4) (off : Off) (d : Word) (reserved : 2 ≤ cmd.toNat) :
    isRowOf cmd off d (decodeFields cmd off d) := by
  by_cases high : 8 ≤ cmd.toNat
  · rw [decodeFields, if_pos high]
    exact ⟨decide_eq_true high, rfl⟩
  · by_cases mid : 4 ≤ cmd.toNat
    · rw [decodeFields, if_neg high, if_pos mid]
      exact ⟨by simpa [Instr.wf, mid] using high, rfl⟩
    · have low : (cmd == 2 || cmd == 3) = true := by
        revert cmd
        decide
      rw [decodeFields, if_neg high, if_neg mid, if_pos reserved]
      exact ⟨low, rfl⟩

/-- Whatever the fields of a word are, they decode to a well-formed operation with that word: the reserved commands first, then the
misaligned offsets, then the register map (60_exceptions.md R257). -/
theorem isRowOf_decodeFields (cmd : BitVec 4) (off : Off) (d : Word) : isRowOf cmd off d (decodeFields cmd off d) := by
  by_cases reserved : 2 ≤ cmd.toNat
  · exact isRowOf_decodeFields_reserved cmd off d reserved
  · have access : cmd = 0 ∨ cmd = 1 := by
      revert cmd
      decide
    cases hal : aligned off with
    | false => exact isRowOf_decodeFields_misaligned cmd off d access hal
    | true =>
      obtain ⟨read, write⟩ := isRowOf_decodeFields_aligned off d hal
      obtain rfl | rfl := access
      · exact read
      · exact write

/-- Settles O21: a word is its three fields, and an operation with a word is no agent step. -/
theorem encodeDecode : Obligations.EncodeDecode := by
  intro w
  obtain ⟨wf, word⟩ : isRowOf (cmdOf w) (offOf w) (dataOf w) (decode w) := isRowOf_decodeFields _ _ _
  refine ⟨wf, Bool.eq_false_of_not_eq_true fun agent => ?_, word.trans (congrArg some (txWord_fields w))⟩
  rw [(encode_eq_none_iff _).2 agent] at word
  cases word

/-- Settles O23: each word is the word of the operation, so the round trip gives the operation back. -/
theorem vectorWordsDecode : Obligations.VectorWordsDecode := by
  unfold Obligations.VectorWordsDecode
  and_intros
  all_goals exact decode_encode _ _ rfl rfl

/-! ### Runs of internal steps and `settle` (30_encoding.md R103, 70_reset_and_hazards.md R285) -/

/-- A run of enabled internal steps is paid for by the work it takes off. -/
theorem length_add_workLeft_le (as : List AgentStep) (s : State) (h : Inv s)
    (internal : ∀ (before after : List AgentStep) (a : AgentStep), as = before ++ a :: after →
      a ∈ internalSteps ∧ enabled a (afterTurns before s) = true) :
    as.length + workLeft (afterTurns as s) ≤ workLeft s := by
  induction as generalizing s with
  | nil => exact (Nat.zero_add _).le
  | cons a as ih =>
    obtain ⟨ha, en⟩ := internal [] as a rfl
    have rest := ih (afterTurn a s) (inv_afterTurn a s h) fun before after b split =>
      internal (a :: before) after b (congrArg (a :: ·) split)
    have paid : workLeft (afterTurn a s) < workLeft s := by
      rw [afterTurn_enabled a s en]
      exact workLeft_agentEffect a ha s h en
    have turns : afterTurns (a :: as) s = afterTurns as (afterTurn a s) := rfl
    rw [turns, List.length_cons]
    omega

/-- When the first enabled step of the list is `a`, the run goes on from its effect. -/
theorem runSteps_first (steps : List AgentStep) (fuel : Nat) (s : State) (a : AgentStep)
    (first : steps.find? (fun a => enabled a s) = some a) :
    runSteps steps (fuel + 1) s = runSteps steps fuel (agentEffect a s) := by
  have en : enabled a s = true := List.find?_some (p := fun a => enabled a s) first
  rw [runSteps, first, ← afterTurn_enabled a s en]

/-- A run of internal steps with fuel for the work left ends in quiescence. -/
theorem quiescent_runSteps (fuel : Nat) (s : State) (h : Inv s) (enough : workLeft s ≤ fuel) :
    quiescent (runSteps internalSteps fuel s) := by
  induction fuel generalizing s with
  | zero =>
    rw [runSteps, quiescent_iff_none_enabled]
    intro a ha
    by_contra en
    have := workLeft_agentEffect a ha s h (by simpa using en)
    omega
  | succ fuel ih =>
    cases first : internalSteps.find? (fun a => enabled a s) with
    | none =>
      rw [runSteps, first, quiescent_iff_none_enabled]
      simpa using first
    | some a =>
      have en : enabled a s = true := List.find?_some (p := fun a => enabled a s) first
      have paid := workLeft_agentEffect a (List.mem_of_find?_eq_some first) s h en
      rw [runSteps_first _ fuel s a first]
      exact ih (agentEffect a s) (inv_agentEffect a s h en) (by omega)

/-- Settles O57: each enabled internal step lowers the work left, and `settle` has fuel for all of it. -/
theorem internalRunsAreFinite : Obligations.InternalRunsAreFinite :=
  ⟨length_add_workLeft_le, fun s h => quiescent_runSteps (workLeft s) s h le_rfl⟩

/-! ### One changed pad settles in one update (41_quadrature_decoder.md R151, R152) -/

/-- The event word is set by an edge: the mask keeps both edge bits (00_scope.md R6). -/
theorem edge_pending (c : Config) (legal : c.legal) (w : Word) :
    w ||| (edgeA &&& efMask c) ≠ 0 ∧ w ||| (edgeB &&& efMask c) ≠ 0 := by
  rw [edgeA_mask c legal, edgeB_mask c legal]
  constructor
  all_goals
    intro zero
    exact absurd (BitVec.or_eq_zero_iff.1 zero).2 (by decide)

/-- Exactly one of the two pads changes its level. -/
def onePad (p q : Bool × Bool) : Prop := (q.1 ≠ p.1 ∧ q.2 = p.2) ∨ (q.1 = p.1 ∧ q.2 ≠ p.2)

/-- One changed pad is one synchroniser step, which leaves an edge event pending. -/
theorem runSteps_sync (s : State) (q : Bool × Bool) (fuel : Nat) (legal : s.cfg.legal) (quiet : quiescent s) (en : s.en = true)
    (changed : onePad (s.padA, s.padB) q) :
    ∃ e : Word, e ≠ 0 ∧ runSteps internalSteps (fuel + 1) { s with padA := q.1, padB := q.2 } =
      runSteps internalSteps fuel
        { s with padA := q.1, padB := q.2, syncA := q.1, syncB := q.2, evEnc := { s.evEnc with ef := e } } := by
  obtain ⟨a, b⟩ := q
  obtain ⟨syncA, syncB, -, -⟩ := quiet
  obtain ⟨pendingA, pendingB⟩ := edge_pending s.cfg legal s.evEnc.ef
  obtain ⟨moved, same⟩ | ⟨same, moved⟩ := changed <;> dsimp only at moved same ⊢
  · refine ⟨_, pendingA, ?_⟩
    rw [runSteps_first _ fuel _ .syncA (by simp [internalSteps, enabled, syncA, moved.symm])]
    simp only [agentEffect, syncPadA, edgeEvent, en, if_true]
    simp only [setEvents, State.setEv, State.ev, same, syncB]
  · refine ⟨_, pendingB, ?_⟩
    rw [runSteps_first _ fuel _ .syncB (by simp [internalSteps, enabled, syncA, syncB, same, moved.symm])]
    simp only [agentEffect, syncPadB, edgeEvent, en, if_true]
    simp only [setEvents, State.setEv, State.ev, same, syncA]

theorem agentEffect_encwConsumeRead (s : State) :
    agentEffect .encwConsumeRead s = { s with evEnc := { s.evEnc with snap := s.evEnc.ef }, encwPh := .clear } := rfl

theorem agentEffect_encwConsumeClear (s : State) :
    agentEffect .encwConsumeClear s = { s with evEnc := ⟨0, s.evEnc.snap, s.evEnc.snap⟩, encwPh := .update } := rfl

/-- With the synchronisers up to date, a pending `EF[ENC]` is consumed and `update()` run, in three steps. -/
theorem runSteps_encService (s : State) (syncA : s.syncA = s.padA) (syncB : s.syncB = s.padB) (ph : s.encwPh = .idle)
    (pending : s.evEnc.ef ≠ 0) :
    runSteps internalSteps 3 s =
      { sampleEncoder { s with evEnc := ⟨0, s.evEnc.ef, s.evEnc.ef⟩, encwPh := .update } with encwPh := .idle } := by
  rw [runSteps_first _ 2 s .encwConsumeRead (by simpa [internalSteps, enabled, syncA, syncB, ph] using pending),
    agentEffect_encwConsumeRead, runSteps_first _ 1 _ .encwConsumeClear (by simp [internalSteps, enabled, syncA, syncB]),
    agentEffect_encwConsumeClear, runSteps_first _ 0 _ .encwUpdate (by simp [internalSteps, enabled, syncA, syncB])]
  rfl

/-- In a quiescent block a changed pad leaves four steps of work: the synchroniser's and ENCW's three. -/
theorem workLeft_onePad (s : State) (q : Bool × Bool) (quiet : quiescent s) (changed : onePad (s.padA, s.padB) q) :
    workLeft { s with padA := q.1, padB := q.2 } = 4 := by
  obtain ⟨syncA, syncB, ⟨encPh, encEf⟩, ledPh, ledEf⟩ := quiet
  have enc : encWork { s with padA := q.1, padB := q.2 } = 0 := by simp [encWork, encPh, encEf]
  have led : ledWork { s with padA := q.1, padB := q.2 } = 0 := by simp [ledWork, ledPending, ledPh, ledEf]
  have sync : syncWork { s with padA := q.1, padB := q.2 } = 4 := by
    obtain ⟨moved, same⟩ | ⟨same, moved⟩ := changed
    all_goals simp only [syncWork, syncA, syncB, same, if_neg moved.symm, if_true]
  rw [workLeft, sync, enc, led]

/-- The two samples differ when one of the pads does (00_scope.md R7). -/
theorem sampleOf_ne_of_onePad (p q : Bool × Bool) (changed : onePad p q) : sampleOf q.1 q.2 ≠ sampleOf p.1 p.2 := by
  revert p q
  unfold onePad
  decide

/-- In a quiescent block with edge events on and an up-to-date sample, `settle` answers one changed pad with one update on the new
sample. -/
theorem settle_onePad (s : State) (q : Bool × Bool) (legal : s.cfg.legal) (quiet : quiescent s) (en : s.en = true)
    (sampled : s.prevSample = sampleOf s.padA s.padB) (changed : onePad (s.padA, s.padB) q) :
    ∃ e : Word, settle { s with padA := q.1, padB := q.2 } = takeSample (sampleOf q.1 q.2)
      { s with padA := q.1, padB := q.2, syncA := q.1, syncB := q.2, evEnc := ⟨0, e, e⟩ } := by
  obtain ⟨e, pending, sync⟩ := runSteps_sync s q 3 legal quiet en changed
  obtain ⟨-, -, ⟨idle, -⟩, -⟩ := id quiet
  have moved : sampleOf q.1 q.2 ≠ s.prevSample := sampled ▸ sampleOf_ne_of_onePad _ q changed
  refine ⟨e, ?_⟩
  rw [settle, workLeft_onePad s q quiet changed, sync, runSteps_encService { s with
      padA := q.1, padB := q.2, syncA := q.1, syncB := q.2, evEnc := { s.evEnc with ef := e } } rfl rfl idle pending]
  simp only [sampleEncoder, if_neg moved, takeSample, idle]
  rfl

/-! ### A walk over the levels of the pads (30_encoding.md R104) -/

/-- The host program that sets the pads to each pair of levels in turn and settles. -/
def walkProgram : List (Bool × Bool) → List Directive
  | [] => []
  | q :: path => pads q.1 q.2 :: .settle :: walkProgram path

/-- From the levels `p` on, each pair of levels of the path changes one pad. -/
def isWalk : Bool × Bool → List (Bool × Bool) → Prop
  | _, [] => True
  | p, q :: path => onePad p q ∧ isWalk q path

/-- The sum of the direction table's deltas along a path from the levels `p`. -/
def walkDelta : Bool × Bool → List (Bool × Bool) → Int
  | _, [] => 0
  | p, q :: path => dirDelta (sampleOf p.1 p.2) (sampleOf q.1 q.2) + walkDelta q path

/-- The block rests with the pads at the levels `p`: edge events on, no range wrap, the sample up to date. -/
def restsAt (p : Bool × Bool) (s : State) : Prop :=
  s.cfg.legal ∧ inWidth s.cfg.rawW s.raw ∧ quiescent s ∧ s.en = true ∧ s.clampEn = false ∧ (s.padA, s.padB) = p ∧
  s.prevSample = sampleOf p.1 p.2

/-- `trunc_N` of a sum may be taken of one of its terms first (00_scope.md R8). -/
theorem truncN_truncN_add (n : Nat) (v d : Int) (hn : 1 ≤ n) : truncN n (truncN n v + d) = truncN n (v + d) := by
  rw [truncN_eq_bmod n _ hn, truncN_eq_bmod n v hn, truncN_eq_bmod n _ hn, Int.bmod_add_bmod]

/-- Without the range wrap the counter moves by the delta, brought to `RAW_W` bits (41_quadrature_decoder.md R152). -/
theorem movedRaw_unclamped (s : State) (d : Int) (unclamped : s.clampEn = false) :
    movedRaw s d = truncN s.cfg.rawW (s.raw + d) := by
  simp [movedRaw, unclamped]

/-- A line `pads` and a line `settle` of a host program (30_encoding.md R103). -/
theorem runProgram_pads_settle (a b : Bool) (ds : List Directive) (s : State) :
    runProgram (pads a b :: .settle :: ds) s = runProgram ds (settle { s with padA := a, padB := b }) := rfl

/-- One pair of levels of a walk: the block rests at them, one update later, the counter moved by the table's delta. -/
theorem settle_rests (p q : Bool × Bool) (s : State) (rest : restsAt p s) (changed : onePad p q) :
    let t := settle { s with padA := q.1, padB := q.2 }
    restsAt q t ∧ t.cfg = s.cfg ∧ t.seq = s.seq + 1 ∧
    t.raw = truncN s.cfg.rawW (s.raw + dirDelta (sampleOf p.1 p.2) (sampleOf q.1 q.2)) := by
  obtain ⟨legal, -, quiet, en, unclamped, rfl, sampled⟩ := rest
  obtain ⟨e, settled⟩ := settle_onePad s q legal quiet en sampled changed
  obtain ⟨-, -, ⟨encPh, -⟩, led⟩ := quiet
  have raw : (settle { s with padA := q.1, padB := q.2 }).raw =
      truncN s.cfg.rawW (s.raw + dirDelta (sampleOf s.padA s.padB) (sampleOf q.1 q.2)) := by
    rw [settled, takeSample_raw, ← show s.prevSample = sampleOf s.padA s.padB from sampled]
    exact movedRaw_unclamped _ _ unclamped
  have inRange := truncN_inWidth s.cfg.rawW (s.raw + dirDelta (sampleOf s.padA s.padB) (sampleOf q.1 q.2)) (rawW_pos _ legal)
  rw [← raw] at inRange
  refine ⟨?_, (congrArg State.cfg settled).trans rfl, (congrArg State.seq settled).trans rfl, raw⟩
  rw [settled] at inRange ⊢
  exact ⟨legal, inRange, ⟨rfl, rfl, ⟨encPh, rfl⟩, led⟩, en, unclamped, rfl, rfl⟩

/-- A walk takes one update per pair of levels and moves the counter by the sum of their deltas. -/
theorem runProgram_walk (path : List (Bool × Bool)) (p : Bool × Bool) (s : State) (rest : restsAt p s) (walk : isWalk p path) :
    ∃ t, runProgram (walkProgram path) s = .next t ∧ t.raw = truncN s.cfg.rawW (s.raw + walkDelta p path) ∧
      t.seq = s.seq + BitVec.ofNat 32 path.length ∧ quiescent t := by
  induction path generalizing p s with
  | nil =>
    obtain ⟨legal, inRange, quiet, -⟩ := rest
    refine ⟨s, rfl, ?_, (BitVec.add_zero _).symm, quiet⟩
    rw [walkDelta, Int.add_zero, truncN_of_inWidth _ _ (rawW_pos _ legal) inRange]
  | cons q path ih =>
    obtain ⟨changed, walk⟩ := walk
    obtain ⟨legal, -⟩ := id rest
    obtain ⟨rest', cfg, seq, raw⟩ := settle_rests p q s rest changed
    obtain ⟨t, runs, rawEnd, seqEnd, quiet⟩ := ih q _ rest' walk
    refine ⟨t, (runProgram_pads_settle q.1 q.2 _ s).trans runs, ?_, ?_, quiet⟩
    · rw [rawEnd, cfg, raw, truncN_truncN_add _ _ _ (rawW_pos _ legal), walkDelta, Int.add_assoc]
    · rw [seqEnd, seq, List.length_cons, Nat.add_comm, BitVec.ofNat_add, BitVec.add_assoc]
      rfl

/-- The levels of a clockwise cycle from both pads low: the samples 1, 3, 2, 0 (30_encoding.md R104). -/
def cwPath : List (Bool × Bool) := [(true, false), (true, true), (false, true), (false, false)]

/-- The levels of a counter-clockwise cycle from both pads low: the samples 2, 3, 1, 0 (30_encoding.md R104). -/
def ccwPath : List (Bool × Bool) := [(false, true), (true, true), (true, false), (false, false)]

theorem rotateCwProgram_eq : rotateCwProgram = walkProgram cwPath := rfl

theorem rotateCcwProgram_eq : rotateCcwProgram = walkProgram ccwPath := rfl

theorem isWalk_cycles : isWalk (false, false) cwPath ∧ isWalk (false, false) ccwPath := by
  simp [isWalk, onePad, cwPath, ccwPath]

theorem walkDelta_cycles : walkDelta (false, false) cwPath = 4 ∧ walkDelta (false, false) ccwPath = -4 := by decide

/-- Settles O52: the two rotations are walks of four updates, with deltas that sum to 4 and to -4. -/
theorem rotationMovesByFour : Obligations.RotationMovesByFour := by
  intro s hinv quiet en unclamped padA padB sampled
  obtain ⟨inRange, -⟩ := hinv.positions
  have rest : restsAt (false, false) s := ⟨hinv.legal, inRange, quiet, en, unclamped, by rw [padA, padB], sampled⟩
  have cw := runProgram_walk cwPath (false, false) s rest isWalk_cycles.1
  have ccw := runProgram_walk ccwPath (false, false) s rest isWalk_cycles.2
  rw [walkDelta_cycles.1, ← rotateCwProgram_eq] at cw
  rw [walkDelta_cycles.2, ← rotateCcwProgram_eq] at ccw
  exact ⟨cw, ccw⟩

/-! ### What the registers read right after a reset (70_reset_and_hazards.md R280) -/

/-- An array of black colours reads 0 at every element, stored or not. -/
theorem colourWord_replicate_zero (n i : Nat) :
    (((List.replicate n Colour.zero)[i]?).map colourWord).getD 0 = 0 := by
  rw [List.getElem?_replicate]
  split <;> rfl

theorem readReg_array_atReset (c : Config) (a b : Bool) (i : BitVec 8) :
    readReg (.ledStage i) (State.atReset c a b) = 0 ∧ readReg (.ledBuf i) (State.atReset c a b) = 0 := by
  simp only [readReg, State.atReset, colourWord_replicate_zero, ite_self, and_self]

/-- The registers that read 0 after a reset, whatever the configuration and the pads are. -/
theorem readReg_zero_atReset (c : Config) (a b : Bool) :
    ∀ r ∈ ([.encCtrl, .encRaw, .encPos, .encPosPrev, .encTLast, .encTPrev, .encSeq, .time, .efEnc, .efLed, .efEncLast,
      .efLedLast, .ledResult, .ledStatus, .ledIndex, .ledSetOne, .ledSetAll] : List RegName),
      readReg r (State.atReset c a b) = 0 := by
  simp only [List.forall_mem_cons, List.not_mem_nil, false_imp_iff, implies_true, and_true]
  and_intros
  all_goals rfl

/-- The status word after a reset: the sample is the one of the synchronised levels, and the direction is NONE. -/
theorem readReg_encStatus_atReset (c : Config) (a b : Bool) :
    readReg .encStatus (State.atReset c a b) = BitVec.ofNat 32 (a.toNat + 2 * b.toNat + 16 * (a.toNat + 2 * b.toNat)) := by
  cases a <;> cases b <;> rfl

/-- Settles O33. -/
theorem registersAfterReset : Obligations.RegistersAfterReset := by
  intro a b
  obtain ⟨ctrl, zeros⟩ := List.forall_mem_cons.1 (readReg_zero_atReset Config.reference a b)
  exact ⟨ctrl, rfl, rfl, zeros, readReg_encStatus_atReset _ a b, rfl, rfl, readReg_array_atReset _ a b⟩

end Sys2Proof

/-!
SUPPORT. The event-flag family: when an agent's turn is its step and when it waits, the host's reads and sets of the event words, a
worker's consume, which operations keep the bits that are set, and what the steps of one domain leave of the other.
-/

namespace Sys2Proof

open Sys2Proof.Machine

/-! ### Turns that take their step and turns that wait (30_encoding.md R101) -/

/-- The enabling condition of each agent step, as the rule of the step writes it. -/
def enablingCondition : AgentStep → State → Prop
  | .syncA, s => s.syncA ≠ s.padA
  | .syncB, s => s.syncB ≠ s.padB
  | .encwConsumeRead, s => s.encwPh = .idle ∧ s.evEnc.ef ≠ 0
  | .encwConsumeClear, s => s.encwPh = .clear
  | .encwUpdate, s => s.encwPh = .update
  | .ledwConsumeRead, s => s.ledwPh = .idle ∧ s.evLed.ef ≠ 0
  | .ledwConsumeClear, s => s.ledwPh = .clear
  | .ledwStart, s => s.ledwPh = .start
  | .ledwTx, s => s.ledwPh = .tx
  | .envPads _ _, _ | .tick, _ | .reset _ _, _ => True

theorem enabled_iff (a : AgentStep) (s : State) : enabled a s = true ↔ enablingCondition a s := by
  cases a <;> simp [enabled, enablingCondition]

theorem exec_turn_taken (a : AgentStep) (s : State) (ready : enablingCondition a s) :
    exec a.toInstr s = .next (agentEffect a s) := by
  rw [exec_toInstr, agentTurn, if_pos ((enabled_iff a s).2 ready)]

theorem exec_turn_waits (a : AgentStep) (s : State) (notReady : ¬ enablingCondition a s) : exec a.toInstr s = .next s := by
  rw [exec_toInstr, agentTurn, if_neg (mt (enabled_iff a s).1 notReady)]

/-- Settles O27: in each phase the worker's turn is enabled, and it is the step the rule describes. -/
theorem consumeSteps : Obligations.ConsumeSteps := fun s =>
  ⟨fun idle pending => exec_turn_taken .encwConsumeRead s ⟨idle, pending⟩, fun clear => exec_turn_taken .encwConsumeClear s clear,
    fun idle pending => exec_turn_taken .ledwConsumeRead s ⟨idle, pending⟩, fun clear => exec_turn_taken .ledwConsumeClear s clear⟩

/-- Settles O34: each condition is the negation of the enabling condition. -/
theorem disabledTurnsWait : Obligations.DisabledTurnsWait := fun s =>
  ⟨fun same => exec_turn_waits .syncA s (not_not.2 same), fun same => exec_turn_waits .syncB s (not_not.2 same),
    fun busyOrEmpty => exec_turn_waits .encwConsumeRead s fun ready => busyOrEmpty.elim (· ready.1) ready.2,
    exec_turn_waits .encwConsumeClear s, exec_turn_waits .encwUpdate s,
    fun busyOrEmpty => exec_turn_waits .ledwConsumeRead s fun ready => busyOrEmpty.elim (· ready.1) ready.2,
    exec_turn_waits .ledwConsumeClear s, exec_turn_waits .ledwStart s, exec_turn_waits .ledwTx s⟩

/-! ### Host reads and writes by their register (20_memory.md R62, 40_event_flags.md R125, R126, R127) -/

/-- The read row of a register answers what the register reads as. -/
theorem readsAs_readReg (r : RegName) (i : Word → Instr) (word : ∀ d, encode (i d) = some (txWord 0 r.offset d))
    (arm : ∀ d s, exec (i d) s = hostRead r s) : ReadsAs r.offset i (readReg r) :=
  fun d s => ⟨word d, arm d s⟩

/-- The write row of a register performs the write rule of the register. -/
theorem writesAs_writeReg (r : RegName) (i : Word → Instr) (word : ∀ d, encode (i d) = some (txWord 1 r.offset d))
    (arm : ∀ d s, exec (i d) s = hostWrite r d s) : WritesAs r.offset i (writeReg r) :=
  fun d s => ⟨word d, arm d s⟩

/-- Settles O4: each row is the read of its register, which reads the word and consumes nothing. -/
theorem eventWordReads : Obligations.EventWordReads :=
  ⟨readsAs_readReg .efEnc _ (fun _ => rfl) fun _ _ => rfl, readsAs_readReg .efLed _ (fun _ => rfl) fun _ _ => rfl,
    readsAs_readReg .efEncLast _ (fun _ => rfl) fun _ _ => rfl, readsAs_readReg .efLedLast _ (fun _ => rfl) fun _ _ => rfl⟩

/-- Settles O10: the write rule of an event word is the set primitive of its domain. -/
theorem eventWordWrites : Obligations.EventWordWrites :=
  ⟨writesAs_writeReg .efEnc _ (fun _ => rfl) fun _ _ => rfl, writesAs_writeReg .efLed _ (fun _ => rfl) fun _ _ => rfl⟩

/-! ### The consume of a worker (40_event_flags.md R134, R135, R136, R137) -/

/-- The two workers that consume events. -/
inductive Worker where
  | encw
  | ledw

namespace Worker

/-- The domain the worker consumes. -/
def domain : Worker → Domain
  | encw => .enc
  | ledw => .led

/-- The host's set of the worker's event word. -/
def setInstr : Worker → Word → Instr
  | encw => .wrEfEnc
  | ledw => .wrEfLed

/-- The worker's consume-read (40_event_flags.md R134). -/
def consumeRead : Worker → AgentStep
  | encw => .encwConsumeRead
  | ledw => .ledwConsumeRead

/-- The worker's consume-clear (40_event_flags.md R135). -/
def consumeClear : Worker → AgentStep
  | encw => .encwConsumeClear
  | ledw => .ledwConsumeClear

/-- The worker waits on its event word. -/
def idle : Worker → State → Prop
  | encw, s => s.encwPh = .idle
  | ledw, s => s.ledwPh = .idle

/-- The worker is between its consume-read and its consume-clear. -/
def midConsume : Worker → State → Prop
  | encw, s => s.encwPh = .clear
  | ledw, s => s.ledwPh = .clear

/-- The worker is right past its consume-clear. -/
def consumed : Worker → State → Prop
  | encw, s => s.encwPh = .update
  | ledw, s => s.ledwPh = .start

/-- The state after the host's set of `m`. -/
def afterSet (w : Worker) (s : State) (m : Word) : State := { setEvents w.domain m s with rdata := none }

theorem exec_setInstr (w : Worker) (m : Word) (s : State) : exec (w.setInstr m) s = .next (w.afterSet s m) := by cases w <;> rfl

@[simp] theorem afterSet_cfg (w : Worker) (m : Word) (s : State) : (w.afterSet s m).cfg = s.cfg := by cases w <;> rfl

@[simp] theorem afterSet_ev (w : Worker) (m : Word) (s : State) :
    (w.afterSet s m).ev w.domain =
      { s.ev w.domain with ef := (s.ev w.domain).ef ||| (m &&& efMask s.cfg) } := by cases w <;> rfl

/-- A set moves no worker (40_event_flags.md R121). -/
theorem afterSet_phase (w : Worker) (m : Word) (s : State) :
    (w.idle (w.afterSet s m) ↔ w.idle s) ∧ (w.midConsume (w.afterSet s m) ↔ w.midConsume s) := by
  cases w <;> exact ⟨Iff.rfl, Iff.rfl⟩

theorem exec_consumeRead (w : Worker) (s : State) (idle : w.idle s) (pending : (s.ev w.domain).ef ≠ 0) :
    exec w.consumeRead.toInstr s = .next (agentEffect w.consumeRead s) := by
  cases w <;> exact exec_turn_taken _ s ⟨idle, pending⟩

theorem exec_consumeClear (w : Worker) (s : State) (mid : w.midConsume s) :
    exec w.consumeClear.toInstr s = .next (agentEffect w.consumeClear s) := by
  cases w <;> exact exec_turn_taken _ s mid

@[simp] theorem consumeRead_cfg (w : Worker) (s : State) : (agentEffect w.consumeRead s).cfg = s.cfg := agentEffect_cfg _ s

@[simp] theorem consumeClear_cfg (w : Worker) (s : State) : (agentEffect w.consumeClear s).cfg = s.cfg := agentEffect_cfg _ s

@[simp] theorem consumeRead_ev (w : Worker) (s : State) :
    (agentEffect w.consumeRead s).ev w.domain = { s.ev w.domain with snap := (s.ev w.domain).ef } := by cases w <;> rfl

@[simp] theorem consumeClear_ev (w : Worker) (s : State) :
    (agentEffect w.consumeClear s).ev w.domain = { s.ev w.domain with ef := 0, last := (s.ev w.domain).snap } := by
  cases w <;> rfl

theorem consumeRead_midConsume (w : Worker) (s : State) : w.midConsume (agentEffect w.consumeRead s) := by cases w <;> rfl

theorem consumeClear_consumed (w : Worker) (s : State) : w.consumed (agentEffect w.consumeClear s) := by cases w <;> rfl

/-- The two steps of a consume that nothing comes between return the pending word. -/
theorem execAll_consume (w : Worker) (s : State) (idle : w.idle s) (pending : (s.ev w.domain).ef ≠ 0) :
    ∃ t, execAll [w.consumeRead.toInstr, w.consumeClear.toInstr] s = .next t ∧ (t.ev w.domain).last = (s.ev w.domain).ef ∧
      (t.ev w.domain).ef = 0 ∧ w.consumed t := by
  refine ⟨agentEffect w.consumeClear (agentEffect w.consumeRead s), ?_, by simp, by simp, consumeClear_consumed w _⟩
  rw [execAll_cons _ _ _ _ (exec_consumeRead w s idle pending),
    execAll_cons _ _ _ _ (exec_consumeClear w _ (consumeRead_midConsume w s)), execAll]

theorem execAll_sets (w : Worker) (ms : List Word) (is : List Instr) (s : State) :
    execAll (ms.map w.setInstr ++ is) s = execAll is (ms.foldl w.afterSet s) := by
  induction ms generalizing s with
  | nil => rfl
  | cons m ms ih => exact (execAll_cons _ _ _ _ (exec_setInstr w m s)).trans (ih _)

theorem afterSets_idle (w : Worker) (ms : List Word) (s : State) (idle : w.idle s) : w.idle (ms.foldl w.afterSet s) := by
  induction ms generalizing s with
  | nil => exact idle
  | cons m ms ih => exact ih _ ((afterSet_phase w m s).1.2 idle)

/-- Sets coalesce: the event word gains the OR of their masks (40_event_flags.md R136). -/
theorem afterSets_ef (w : Worker) (ms : List Word) (s : State) :
    ((ms.foldl w.afterSet s).ev w.domain).ef =
      (s.ev w.domain).ef ||| (ms.foldl (fun x m => x ||| m) 0 &&& efMask s.cfg) := by
  induction ms generalizing s with
  | nil => simp
  | cons m ms ih =>
    have first : ms.foldl (fun x m => x ||| m) (0 ||| m) = m ||| ms.foldl (fun x m => x ||| m) 0 := by
      rw [BitVec.or_comm 0 m]
      exact List.foldl_assoc
    rw [List.foldl_cons, List.foldl_cons, ih, first, afterSet_cfg, afterSet_ev, BitVec.and_or_distrib_right, BitVec.or_assoc]

/-- A consume after any sets of the host returns all that was pending and all that was set. -/
theorem execAll_sets_consume (w : Worker) (ms : List Word) (s : State) (idle : w.idle s)
    (pending : (s.ev w.domain).ef ||| (ms.foldl (fun x m => x ||| m) 0 &&& efMask s.cfg) ≠ 0) :
    ∃ t, execAll (ms.map w.setInstr ++ [w.consumeRead.toInstr, w.consumeClear.toInstr]) s = .next t ∧
      (t.ev w.domain).last = (s.ev w.domain).ef ||| (ms.foldl (fun x m => x ||| m) 0 &&& efMask s.cfg) ∧
      (t.ev w.domain).ef = 0 ∧ w.consumed t := by
  rw [← afterSets_ef w ms s] at pending ⊢
  rw [execAll_sets]
  exact execAll_consume w _ (afterSets_idle w ms s idle) pending

/-- A set before the consume-read is taken by the consume (40_event_flags.md R137). -/
theorem set_before_consume (w : Worker) (m : Word) (s : State) (idle : w.idle s) (pending : (s.ev w.domain).ef ≠ 0) :
    ∃ t, execAll [w.setInstr m, w.consumeRead.toInstr, w.consumeClear.toInstr] s = .next t ∧
      (t.ev w.domain).last = (s.ev w.domain).ef ||| (m &&& efMask s.cfg) ∧ (t.ev w.domain).ef = 0 := by
  have one : [m].foldl (fun x m => x ||| m) 0 = m := BitVec.zero_or
  obtain ⟨t, runs, last, ef, -⟩ := execAll_sets_consume w [m] s idle (or_ne_zero_of_left _ _ pending)
  exact ⟨t, runs, one ▸ last, ef⟩

/-- A set between the two steps is lost (40_event_flags.md R137). -/
theorem set_amid_consume (w : Worker) (m : Word) (s : State) (idle : w.idle s) (pending : (s.ev w.domain).ef ≠ 0) :
    ∃ t, execAll [w.consumeRead.toInstr, w.setInstr m, w.consumeClear.toInstr] s = .next t ∧
      (t.ev w.domain).last = (s.ev w.domain).ef ∧ (t.ev w.domain).ef = 0 := by
  refine ⟨agentEffect w.consumeClear (w.afterSet (agentEffect w.consumeRead s) m), ?_, by simp, by simp⟩
  have mid := (afterSet_phase w m _).2.2 (consumeRead_midConsume w s)
  rw [execAll_cons _ _ _ _ (exec_consumeRead w s idle pending), execAll_cons _ _ _ _ (exec_setInstr w m _),
    execAll_cons _ _ _ _ (exec_consumeClear w _ mid), execAll]

/-- A set after the consume-clear stays pending (40_event_flags.md R137). -/
theorem set_after_consume (w : Worker) (m : Word) (s : State) (idle : w.idle s) (pending : (s.ev w.domain).ef ≠ 0) :
    ∃ t, execAll [w.consumeRead.toInstr, w.consumeClear.toInstr, w.setInstr m] s = .next t ∧
      (t.ev w.domain).last = (s.ev w.domain).ef ∧ (t.ev w.domain).ef = m &&& efMask s.cfg := by
  refine ⟨w.afterSet (agentEffect w.consumeClear (agentEffect w.consumeRead s)) m, ?_, by simp, by simp⟩
  rw [execAll_cons _ _ _ _ (exec_consumeRead w s idle pending),
    execAll_cons _ _ _ _ (exec_consumeClear w _ (consumeRead_midConsume w s)), execAll_cons _ _ _ _ (exec_setInstr w m _),
    execAll]

end Worker

/-- Settles O45: the consume after the sets, for either worker. -/
theorem consumeCoalesces : Obligations.ConsumeCoalesces := fun ms s =>
  ⟨fun idle pending => Worker.encw.execAll_sets_consume ms s idle pending,
    fun idle pending => Worker.ledw.execAll_sets_consume ms s idle pending⟩

/-- Settles O46: the three outcomes, for either worker. -/
theorem setConsumeRace : Obligations.SetConsumeRace := by
  intro m s
  have outcomes (w : Worker) (idle : w.idle s) (pending : (s.ev w.domain).ef ≠ 0) :=
    And.intro (w.set_before_consume m s idle pending)
      (And.intro (w.set_amid_consume m s idle pending) (w.set_after_consume m s idle pending))
  exact ⟨outcomes .encw, outcomes .ledw⟩

/-! ### A lost event heals (40_event_flags.md R138) -/

theorem execAll_turn_taken (a : AgentStep) (is : List Instr) (s : State) (ready : enablingCondition a s) :
    execAll (a.toInstr :: is) s = execAll is (agentEffect a s) := execAll_cons _ _ _ _ (exec_turn_taken a s ready)

/-- An update leaves the sample of the synchronised levels, taken or already there (41_quadrature_decoder.md R152). -/
@[simp] theorem sampleEncoder_prevSample (s : State) : (sampleEncoder s).prevSample = sampleOf s.syncA s.syncB := by
  by_cases same : sampleOf s.syncA s.syncB = s.prevSample
  · rw [sampleEncoder_same s same, same]
  · rw [sampleEncoder_changed s same, takeSample_prevSample]

/-- An edge event is no part of the snapshot of a consume under way. -/
@[simp] theorem edgeEvent_snap (m : Word) (s : State) : (edgeEvent m s).evEnc.snap = s.evEnc.snap := by
  unfold edgeEvent
  split <;> rfl

@[simp] theorem syncPadA_snap (s : State) : (syncPadA s).evEnc.snap = s.evEnc.snap := edgeEvent_snap edgeA { s with syncA := s.padA }

@[simp] theorem syncPadB_snap (s : State) : (syncPadB s).evEnc.snap = s.evEnc.snap := edgeEvent_snap edgeB { s with syncB := s.padB }

/-- From phase CLEAR on, the consume-clear and the update drop the event word and sample the synchronised levels of that time. -/
theorem execAll_clear_update (s : State) (clear : s.encwPh = .clear) :
    ∃ t, execAll [.encwConsumeClear, .encwUpdate] s = .next t ∧ t.evEnc.ef = 0 ∧ t.evEnc.last = s.evEnc.snap ∧
      t.encwPh = .idle ∧ t.prevSample = sampleOf s.syncA s.syncB := by
  refine ⟨agentEffect .encwUpdate (agentEffect .encwConsumeClear s), ?_, by simp [agentEffect], by simp [agentEffect], rfl,
    by simp [agentEffect]⟩
  exact (execAll_turn_taken .encwConsumeClear _ s clear).trans (execAll_turn_taken .encwUpdate [] _ rfl)

/-- From phase CLEAR on, the consume-clear and the start drop the event word and send the strip of that time. -/
theorem execAll_clear_start (s : State) (clear : s.ledwPh = .clear) :
    ∃ t, execAll [.ledwConsumeClear, .ledwStart] s = .next t ∧ t.evLed.ef = 0 ∧ t.evLed.last = s.evLed.snap ∧
      t.ledwPh = .tx ∧ t.txPos = 0 ∧ t.txFrame = serialize (frame s.buf) := by
  refine ⟨agentEffect .ledwStart (agentEffect .ledwConsumeClear s), ?_, rfl, rfl, rfl, rfl, rfl⟩
  exact (execAll_turn_taken .ledwConsumeClear _ s clear).trans (execAll_turn_taken .ledwStart [] _ rfl)

/-- A set one below the current length replaces the entry and raises `UPDATE` (42_led_encoder.md R201). -/
theorem setOne_inRange (c : Colour) (s : State) (inRange : s.index.toNat < s.len) :
    setOne c s = setEvents .led updateEvent { s with buf := s.buf.set s.index.toNat c, result := .ok } := if_pos inRange

/-- A set all within the current length replaces the strip and raises `UPDATE` (42_led_encoder.md R202). -/
theorem setAll_fits (k : Word) (s : State) (fits : k.toNat ≤ s.len) :
    setAll k s = setEvents .led updateEvent { s with buf := s.stage.take k.toNat, result := .ok } := if_neg (not_lt.2 fits)

/-- The consume of LEDW goes on unchanged after a host write that keeps its phase and snapshot, and sends the strip written. -/
theorem execAll_write_clear_start (i : Instr) (s u : State) (write : exec i s = .next u) (clear : u.ledwPh = .clear)
    (snap : u.evLed.snap = s.evLed.snap) :
    ∃ t, execAll [i, .ledwConsumeClear, .ledwStart] s = .next t ∧ t.evLed.ef = 0 ∧ t.evLed.last = s.evLed.snap ∧
      t.ledwPh = .tx ∧ t.txPos = 0 ∧ t.txFrame = serialize (frame u.buf) := by
  rw [execAll_cons _ _ _ _ write, ← snap]
  exact execAll_clear_start u clear

/-- Settles O47: the steps after the lost event read the synchronisers and the strip, which the lost event's step had written. -/
theorem lostEdgeHeals : Obligations.LostEdgeHeals := by
  refine fun s => ⟨fun clear moved _ => ?edgeA, fun clear moved _ => ?edgeB, fun v clear inRange => ?setOne,
    fun k clear fits => ?setAll⟩
  case edgeA =>
    obtain ⟨t, runs, healed⟩ := execAll_clear_update (syncPadA s) (by simp [clear])
    refine ⟨t, (execAll_turn_taken .syncA _ s moved).trans runs, ?_⟩
    simpa [sampleOf] using healed
  case edgeB =>
    obtain ⟨t, runs, healed⟩ := execAll_clear_update (syncPadB s) (by simp [clear])
    refine ⟨t, (execAll_turn_taken .syncB _ s moved).trans runs, ?_⟩
    simpa [sampleOf] using healed
  case setOne =>
    have write : exec (.wrLedSetOne v) s = .next { setOne (colourOfWord v) s with rdata := none } := rfl
    rw [setOne_inRange _ s inRange] at write
    have healed := execAll_write_clear_start _ s _ write clear rfl
    exact healed
  case setAll =>
    have write : exec (.wrLedSetAll k) s = .next { setAll k s with rdata := none } := rfl
    rw [setAll_fits k s fits] at write
    have healed := execAll_write_clear_start _ s _ write clear rfl
    exact healed

/-! ### What keeps the bits that are set (40_event_flags.md R139) -/

/-- Every bit set in the worker's event word in `s` is set in `t`. -/
def keepsPending (w : Worker) (s t : State) : Prop :=
  ∀ k, (s.ev w.domain).ef.getLsbD k = true → (t.ev w.domain).ef.getLsbD k = true

theorem keepsPending_of_eq (w : Worker) {s t : State} (enc : t.evEnc.ef = s.evEnc.ef) (led : t.evLed.ef = s.evLed.ef) :
    keepsPending w s t := by
  intro k set
  cases w with
  | encw => exact (congrArg (·.getLsbD k) enc).trans set
  | ledw => exact (congrArg (·.getLsbD k) led).trans set

theorem getLsbD_or_left (x m : Word) (k : Nat) (set : x.getLsbD k = true) : (x ||| m).getLsbD k = true := by
  rw [BitVec.getLsbD_or, set, Bool.true_or]

/-- The set primitive of either domain clears no bit of either word (40_event_flags.md R121). -/
theorem keepsPending_setEvents (w d : Worker) (m : Word) (s : State) : keepsPending w s (setEvents d.domain m s) := by
  intro k set
  cases w <;> cases d
  case encw.encw | ledw.ledw => exact getLsbD_or_left _ _ k set
  case encw.ledw | ledw.encw => exact set

theorem keepsPending_edgeEvent (w : Worker) (m : Word) (s : State) : keepsPending w s (edgeEvent m s) := by
  unfold edgeEvent
  split
  · exact keepsPending_setEvents w .encw m s
  · exact keepsPending_of_eq w rfl rfl

/-- A host write sets bits of the event words and clears none: there is no clear by the host. -/
theorem keepsPending_writeReg (w : Worker) (r : RegName) (v : Word) (s : State) : keepsPending w s (writeReg r v s) := by
  cases r
  case efEnc => exact keepsPending_setEvents w .encw v s
  case efLed => exact keepsPending_setEvents w .ledw v s
  case ledSetOne =>
    simp only [writeReg, setOne]
    split
    · exact keepsPending_setEvents w .ledw _ { s with buf := _, result := .ok }
    · exact keepsPending_of_eq w rfl rfl
  case ledSetAll =>
    simp only [writeReg, setAll]
    split
    · exact keepsPending_of_eq w rfl rfl
    · exact keepsPending_setEvents w .ledw _ { s with buf := _, result := .ok }
  case ledStage i => simp only [writeReg]; split <;> exact keepsPending_of_eq w rfl rfl
  all_goals exact keepsPending_of_eq w rfl rfl

/-- No agent step but the worker's consume-clear and a reset clears a bit of the worker's event word. -/
theorem keepsPending_agentEffect (w : Worker) (a : AgentStep) (s : State) (notClear : a ≠ w.consumeClear)
    (notReset : isReset a.toInstr = false) : keepsPending w s (agentEffect a s) := by
  cases a
  case syncA => exact keepsPending_edgeEvent w edgeA { s with syncA := s.padA }
  case syncB => exact keepsPending_edgeEvent w edgeB { s with syncB := s.padB }
  case encwConsumeClear =>
    cases w with
    | encw => exact absurd rfl notClear
    | ledw => exact fun _ set => set
  case ledwConsumeClear =>
    cases w with
    | encw => exact fun _ set => set
    | ledw => exact absurd rfl notClear
  case encwUpdate => exact keepsPending_of_eq w (by simp [agentEffect]) (by simp [agentEffect])
  case ledwTx => exact keepsPending_of_eq w (by simp [agentEffect]) (by simp [agentEffect])
  case reset a b => cases notReset
  all_goals exact keepsPending_of_eq w rfl rfl

/-- An operation keeps the pending bits of a worker, unless it is a reset or the worker's consume-clear. -/
theorem keepsPending_exec (w : Worker) (i : Instr) (s t : State) (next : exec i s = .next t) (notReset : isReset i = false)
    (notClear : i ≠ w.consumeClear.toInstr) : keepsPending w s t := by
  obtain ⟨v, rfl⟩ | ⟨r, v, rfl⟩ | rfl | ⟨a, rfl, rfl⟩ := exec_next_cases i s t next
  · exact keepsPending_of_eq w rfl rfl
  · cases w <;> exact keepsPending_writeReg _ r v s
  · exact keepsPending_of_eq w rfl rfl
  · rw [afterTurn_eq]
    split
    · exact keepsPending_agentEffect w a s (fun clear => notClear (clear ▸ rfl)) notReset
    · exact keepsPending_of_eq w rfl rfl

/-- Settles O39: every other operation keeps the bits that are set. -/
theorem eventBitsClearedOnlyByConsume : Obligations.EventBitsClearedOnlyByConsume := by
  intro i s t k next notReset
  have clears (w : Worker) (set : (s.ev w.domain).ef.getLsbD k = true) (clear : (t.ev w.domain).ef.getLsbD k = false) :
      i = w.consumeClear.toInstr := by
    by_contra notClear
    have kept := keepsPending_exec w i s t next notReset notClear k set
    exact Bool.false_ne_true (clear.symm.trans kept)
  exact ⟨clears .encw, clears .ledw⟩

/-! ### The domains share nothing (40_event_flags.md R120) -/

/-- The steps of the encoder's agents: the synchronisers and ENCW. -/
def encoderSteps : List AgentStep := .syncA :: .syncB :: workerSteps .enc

/-- `t` has the elements of the LED strip and its transmitter as `s` has them. -/
def sameLedElements (s t : State) : Prop :=
  t.evLed = s.evLed ∧ t.ledwPh = s.ledwPh ∧ t.buf = s.buf ∧ t.stage = s.stage ∧ t.index = s.index ∧
  t.result = s.result ∧ t.txFrame = s.txFrame ∧ t.txPos = s.txPos ∧ t.trace = s.trace ∧
  t.dataPin = s.dataPin ∧ t.clkPin = s.clkPin

/-- `t` has the elements of the encoder, its pads and the time as `s` has them. -/
def sameEncoderElements (s t : State) : Prop :=
  t.evEnc = s.evEnc ∧ t.encwPh = s.encwPh ∧ t.raw = s.raw ∧ t.ext = s.ext ∧ t.extPrev = s.extPrev ∧
  t.prevSample = s.prevSample ∧ t.tLast = s.tLast ∧ t.tPrev = s.tPrev ∧ t.time = s.time ∧ t.seq = s.seq ∧
  t.en = s.en ∧ t.latchMode = s.latchMode ∧ t.clampEn = s.clampEn ∧ t.minPos = s.minPos ∧ t.maxPos = s.maxPos ∧
  t.padA = s.padA ∧ t.padB = s.padB ∧ t.syncA = s.syncA ∧ t.syncB = s.syncB

theorem sameLedElements_agentEffect (a : AgentStep) (encoder : a ∈ encoderSteps) (s : State) :
    sameLedElements s (agentEffect a s) := by
  cases a
  case syncA | syncB | encwConsumeRead | encwConsumeClear | encwUpdate => simp [sameLedElements, agentEffect]
  all_goals simp [encoderSteps, workerSteps] at encoder

theorem sameEncoderElements_agentEffect (a : AgentStep) (led : a ∈ workerSteps .led) (s : State) :
    sameEncoderElements s (agentEffect a s) := by
  cases a
  case ledwConsumeRead | ledwConsumeClear | ledwStart | ledwTx => simp [sameEncoderElements, agentEffect]
  all_goals simp [workerSteps] at led

/-- A reflexive relation between the states before and after the effect of each listed step holds across a turn of any of them, taken
or not. -/
theorem rel_of_turn (rel : State → State → Prop) (refl : ∀ s, rel s s) (steps : List AgentStep)
    (effect : ∀ a ∈ steps, ∀ s, rel s (agentEffect a s)) (i : Instr) (turn : i ∈ steps.map AgentStep.toInstr) (s t : State)
    (next : exec i s = .next t) : rel s t := by
  obtain ⟨a, ha, rfl⟩ := List.mem_map.1 turn
  rw [exec_toInstr, agentTurn_next] at next
  rw [next]
  split
  · exact effect a ha s
  · exact refl s

/-- No agent step but a reset touches a further domain (assumption log 13). -/
theorem agentEffect_evOther (a : AgentStep) (s : State) (notReset : isReset a.toInstr = false) :
    (agentEffect a s).evOther = s.evOther := by
  cases a
  case syncA => exact syncPadA_evOther s
  case syncB => exact syncPadB_evOther s
  case encwUpdate => exact sampleEncoder_evOther s
  case ledwTx => exact transmit_evOther s
  case reset a b => cases notReset
  all_goals rfl

theorem exec_evOther (i : Instr) (s t : State) (next : exec i s = .next t) (notReset : isReset i = false) :
    t.evOther = s.evOther := by
  obtain ⟨v, rfl⟩ | ⟨r, v, rfl⟩ | rfl | ⟨a, rfl, rfl⟩ := exec_next_cases i s t next
  · rfl
  · exact writeReg_evOther r v s
  · rfl
  · rw [afterTurn_eq]
    split
    · exact agentEffect_evOther a s notReset
    · rfl

/-- Settles O44: each list is the steps of one side's agents, and no effect of one side touches the other's elements. -/
theorem domainsShareNothing : Obligations.DomainsShareNothing := fun i s t next =>
  ⟨fun encoder => rel_of_turn sameLedElements (by simp [sameLedElements]) encoderSteps sameLedElements_agentEffect i encoder
      s t next,
    fun led => rel_of_turn sameEncoderElements (by simp [sameEncoderElements]) (workerSteps .led)
      sameEncoderElements_agentEffect i led s t next,
    exec_evOther i s t next⟩

end Sys2Proof

/-!
SUPPORT. The quadrature-decoder family: the direction table, the latch modes, the host's reads and writes of the encoder registers, a
set position, the steps of ENV, TICK and the synchronisers, and an update with and without the range wrap.
-/

namespace Sys2Proof

open Sys2Proof.Machine

/-! ### The direction table and the latch modes (41_quadrature_decoder.md R154, R155) -/

/-- Settles O29: the sixteen entries, looked up. -/
theorem directionTable : Obligations.DirectionTable := by
  unfold Obligations.DirectionTable
  decide

/-- A sample that did not change moves nothing (41_quadrature_decoder.md R154). -/
theorem dirDelta_self (p : BitVec 2) : dirDelta p p = 0 := by
  revert p
  decide

/-- Settles O30: each list has exactly the samples named. -/
theorem latchStates_modes : Obligations.LatchStates :=
  ⟨fun _ => ⟨List.mem_singleton, List.mem_singleton, List.mem_pair⟩, rfl, rfl, rfl⟩

/-- Only the two-step mode shifts by one bit (41_quadrature_decoder.md R155). -/
theorem shiftOf_eq_ite (m : LatchMode) : shiftOf m = if m = .twoL03 then 1 else 2 := by cases m <;> rfl

theorem latchModeCode_ne_three (m : LatchMode) : latchModeCode m ≠ 3 := by cases m <;> decide

/-- The mode a control word leaves, code by code (30_encoding.md R95). -/
theorem latchModeOf_getD (m : BitVec 2) (old : LatchMode) :
    (latchModeOf m).getD old = if m = 0 then .fourL3 else if m = 1 then .fourL0 else if m = 2 then .twoL03 else old := by
  cases old <;> revert m <;> decide

/-- Without gating, and at the latch states with it, a changed sample is projected (41_quadrature_decoder.md R155). -/
theorem projects_iff (s : State) (c : BitVec 2) :
    projects s c = true ↔ s.cfg.latchGated = false ∨ c ∈ latchStates s.latchMode := by
  simp [projects]

/-! ### Reads of the encoder registers (41_quadrature_decoder.md R164 to R176) -/

/-- The mode field of `ENC_CTRL` reads as the code of the mode held (30_encoding.md R93). -/
theorem ctrlMode_ctrlWord (s : State) : ctrlMode (ctrlWord s) = latchModeCode s.latchMode := by
  have field : ∀ (en clamp : Bool) (m : BitVec 2),
      (BitVec.ofNat 32 (en.toNat + 2 * m.toNat + 8 * clamp.toNat)).extractLsb' 1 2 = m := by decide
  exact field s.en s.clampEn (latchModeCode s.latchMode)

/-- Settles O1: each row is the read of its register, and no latch mode has the code 3. -/
theorem encoderConfigReads : Obligations.EncoderConfigReads :=
  ⟨readsAs_readReg .encCtrl _ (fun _ => rfl) fun _ _ => rfl,
    fun s => (ctrlMode_ctrlWord s).trans_ne (latchModeCode_ne_three s.latchMode),
    readsAs_readReg .encMin _ (fun _ => rfl) fun _ _ => rfl, readsAs_readReg .encMax _ (fun _ => rfl) fun _ _ => rfl⟩

/-- Settles O2: each row is the read of its register, which reads the position as a word. -/
theorem encoderPositionReads : Obligations.EncoderPositionReads :=
  ⟨readsAs_readReg .encRaw _ (fun _ => rfl) fun _ _ => rfl, readsAs_readReg .encPos _ (fun _ => rfl) fun _ _ => rfl,
    readsAs_readReg .encPosPrev _ (fun _ => rfl) fun _ _ => rfl⟩

/-- The code of the direction, from the two positions (10_state.md R36). -/
theorem dirCode_dir (s : State) : dirCode s.dir = if s.ext > s.extPrev then 1 else if s.ext < s.extPrev then 2 else 0 := by
  unfold State.dir
  split
  · rfl
  · split <;> rfl

theorem dir_eq_none (s : State) (same : s.ext = s.extPrev) : s.dir = .none := by
  simp [State.dir, same]

theorem readReg_encStatus (s : State) : readReg .encStatus s =
    BitVec.ofNat 32 (s.prevSample.toNat + 4 * (if s.ext > s.extPrev then 1 else if s.ext < s.extPrev then 2 else 0)
      + 16 * (s.syncA.toNat + 2 * s.syncB.toNat)) := by
  rw [readReg, statusWord, dirCode_dir]

/-- Settles O3: each row is the read of its register, and the status word compares the positions at the read. -/
theorem encoderStatusAndTimeReads : Obligations.EncoderStatusAndTimeReads :=
  ⟨funext readReg_encStatus ▸ readsAs_readReg .encStatus _ (fun _ => rfl) fun _ _ => rfl,
    readsAs_readReg .encTLast _ (fun _ => rfl) fun _ _ => rfl, readsAs_readReg .encTPrev _ (fun _ => rfl) fun _ _ => rfl,
    readsAs_readReg .encSeq _ (fun _ => rfl) fun _ _ => rfl, readsAs_readReg .time _ (fun _ => rfl) fun _ _ => rfl⟩

/-! ### Writes of the encoder registers (41_quadrature_decoder.md R160 to R163) -/

/-- A write row whose register's write rule is `f` has the effect `f`. -/
theorem writesAs_of_writeReg_eq (r : RegName) (i : Word → Instr) (f : Word → State → State)
    (word : ∀ d, encode (i d) = some (txWord 1 r.offset d)) (arm : ∀ d s, exec (i d) s = hostWrite r d s)
    (rule : ∀ d s, writeReg r d s = f d s) : WritesAs r.offset i f := by
  have same : writeReg r = f := funext fun d => funext (rule d)
  exact same ▸ writesAs_writeReg r i word arm

/-- Settles O7: the write rule takes the three fields, and the reserved code names no mode. -/
theorem encCtrlWrite : Obligations.EncCtrlWrite :=
  writesAs_of_writeReg_eq .encCtrl _ _ (fun _ => rfl) (fun _ _ => rfl) fun v s => by
    rw [writeReg, writeCtrl, latchModeOf_getD]
    rfl

/-- Settles O8: each bound becomes the truncation of `DATA`, which is in the width and congruent to it (R8). -/
theorem boundWrites : Obligations.BoundWrites := by
  intro v s legal
  have pos := rawW_pos s.cfg legal
  have inRange : inWidth s.cfg.rawW (sextN s.cfg.rawW v) := truncN_inWidth _ _ pos
  have congruent : (sextN s.cfg.rawW v - (v.toNat : Int)) % 2 ^ s.cfg.rawW = 0 := truncN_congr _ _ pos
  exact ⟨rfl, rfl, ⟨_, inRange, congruent, rfl⟩, ⟨_, inRange, congruent, rfl⟩⟩

/-- Settles O9: the write rule is the set position to the sign-extended `DATA`, with the shift of the latch mode. -/
theorem setPositionWrite : Obligations.SetPositionWrite :=
  writesAs_of_writeReg_eq .encPos _ _ (fun _ => rfl) (fun _ _ => rfl) fun v s => by
    simp only [writeReg, setPosition, reseededRaw, asr, shiftOf_eq_ite]

/-- A set position whose target fits in the width leaves the counter at its target (41_quadrature_decoder.md R160). -/
theorem reseededRaw_of_fits (s : State) (p : Int) (legal : s.cfg.legal)
    (fits : inWidth s.cfg.rawW (p * 2 ^ shiftOf s.latchMode + s.raw % 2 ^ shiftOf s.latchMode)) :
    reseededRaw s p = p * 2 ^ shiftOf s.latchMode + s.raw % 2 ^ shiftOf s.latchMode :=
  truncN_of_inWidth _ _ (rawW_pos _ legal) fits

/-- The shift takes a position joined with a sub-detent phase apart again (00_scope.md R8). -/
theorem asr_join (p r : Int) (k : Nat) : asr (p * 2 ^ k + r % 2 ^ k) k = p := by
  have unit : (0 : Int) < 2 ^ k := by positivity
  rw [asr, Int.add_comm, Int.add_mul_ediv_right _ _ unit.ne',
    Int.ediv_eq_zero_of_lt (Int.emod_nonneg r unit.ne') (Int.emod_lt_of_pos r unit), Int.zero_add]

theorem join_emod (p r : Int) (k : Nat) : (p * 2 ^ k + r % 2 ^ k) % 2 ^ k = r % 2 ^ k := by
  rw [Int.add_comm, Int.add_mul_emod_self_right, Int.emod_emod]

/-- Settles O50: the counter is the position joined with the old phase, and both positions are its projection. -/
theorem setPositionKeepsPhase : Obligations.SetPositionKeepsPhase := by
  intro v s t legal next fits
  rw [(hostWrite_next .encPos v s t).1 next]
  have target := reseededRaw_of_fits s _ legal fits
  refine ⟨?_, ?_, dir_eq_none _ rfl⟩
  · calc asr (reseededRaw s (sextN s.cfg.rawW v)) (shiftOf s.latchMode)
      _ = sextN s.cfg.rawW v := by rw [target, asr_join]
  · calc reseededRaw s (sextN s.cfg.rawW v) % 2 ^ shiftOf s.latchMode
      _ = s.raw % 2 ^ shiftOf s.latchMode := by rw [target, join_emod]

/-! ### ENV, TICK and the synchronisers (41_quadrature_decoder.md R150, R151, R170) -/

/-- A time counter of a legal width fits in a word (00_scope.md R6). -/
theorem timeWord_toNat (c : Config) (n : Nat) (legal : c.legal) : (timeWord c n).toNat = n % 2 ^ c.tsW := by
  obtain ⟨-, -, ⟨-, tsW⟩, -⟩ := legal
  rw [timeWord, BitVec.toNat_ofNat]
  exact Nat.mod_eq_of_lt ((Nat.mod_lt n (Nat.two_pow_pos _)).trans_le (Nat.pow_le_pow_right two_pos tsW))

/-- Settles O25: both steps are always enabled. -/
theorem envAndTickSteps : Obligations.EnvAndTickSteps := fun a b s legal =>
  ⟨exec_turn_taken (.envPads a b) s trivial, timeWord s.cfg (s.time.toNat + 1), timeWord_toNat _ _ legal,
    exec_turn_taken .tick s trivial⟩

/-- While enabled, an edge sets its bit, when the event word has it (41_quadrature_decoder.md R151). -/
theorem edgeEvent_on (m : Word) (s : State) (bit : m &&& efMask s.cfg = m) (on : s.en = true) :
    edgeEvent m s = { s with evEnc := { s.evEnc with ef := s.evEnc.ef ||| m } } := by
  rw [edgeEvent, if_pos on, setEvents, bit]
  rfl

/-- While not enabled, an edge sets no bit (41_quadrature_decoder.md R151). -/
theorem edgeEvent_off (m : Word) (s : State) (off : s.en = false) : edgeEvent m s = s := by
  rw [edgeEvent, off]
  rfl

/-- Settles O26: a pad that differs enables the turn, which takes its level; `EN` decides about the edge event. -/
theorem synchroniserSteps : Obligations.SynchroniserSteps := by
  intro s legal
  refine ⟨fun differs on => ?_, fun differs off => ?_, fun differs on => ?_, fun differs off => ?_⟩
  · exact (exec_turn_taken .syncA s differs).trans (congrArg _ (edgeEvent_on edgeA _ (edgeA_mask s.cfg legal) on))
  · exact (exec_turn_taken .syncA s differs).trans (congrArg _ (edgeEvent_off edgeA _ off))
  · exact (exec_turn_taken .syncB s differs).trans (congrArg _ (edgeEvent_on edgeB _ (edgeB_mask s.cfg legal) on))
  · exact (exec_turn_taken .syncB s differs).trans (congrArg _ (edgeEvent_off edgeB _ off))

/-! ### The update step (41_quadrature_decoder.md R152, R153) -/

/-- The counter after a move, with the range wrap written out (41_quadrature_decoder.md R152, R153). -/
theorem movedRaw_eq_ite (s : State) (d : Int) : movedRaw s d = truncN s.cfg.rawW
    (if s.clampEn = true ∧ d ≠ 0 then
      (if s.raw + d > s.maxPos then s.minPos else if s.raw + d < s.minPos then s.maxPos else s.raw + d)
    else s.raw + d) := by
  simp only [movedRaw, wrapRange, Bool.and_eq_true, bne_iff_ne, gt_iff_lt]

/-- In phase UPDATE the turn of ENCW runs `update()` and goes back to waiting (41_quadrature_decoder.md R152). -/
theorem exec_encwUpdate (s : State) (update : s.encwPh = .update) :
    exec .encwUpdate s = .next { sampleEncoder s with encwPh := .idle } :=
  exec_turn_taken .encwUpdate s update

theorem exec_encwUpdate_same (s : State) (update : s.encwPh = .update) (same : sampleOf s.syncA s.syncB = s.prevSample) :
    exec .encwUpdate s = .next { s with encwPh := .idle } := by
  rw [exec_encwUpdate s update, sampleEncoder_same s same]

theorem exec_encwUpdate_changed (s : State) (update : s.encwPh = .update)
    (changed : sampleOf s.syncA s.syncB ≠ s.prevSample) :
    exec .encwUpdate s = .next { takeSample (sampleOf s.syncA s.syncB) s with encwPh := .idle } := by
  rw [exec_encwUpdate s update, sampleEncoder_changed s changed]

/-- Settles O28: an unchanged sample is no update, and a changed one is taken, projected exactly when the gating allows it. -/
theorem updateStep : Obligations.UpdateStep := by
  intro s update c d r w raw' k
  have moved : movedRaw s (dirDelta s.prevSample (sampleOf s.syncA s.syncB)) = raw' := movedRaw_eq_ite s d
  have shift : shiftOf s.latchMode = k := shiftOf_eq_ite s.latchMode
  have gate : projects s (sampleOf s.syncA s.syncB) = true ↔ s.cfg.latchGated = false ∨ c ∈ latchStates s.latchMode :=
    projects_iff s c
  refine ⟨exec_encwUpdate_same s update, fun changed projecting => ?_, fun changed gated noLatch => ?_⟩
  · rw [exec_encwUpdate_changed s update changed, takeSample, moved, shift, if_pos (gate.2 projecting)]
    rfl
  · have closed : ¬ (s.cfg.latchGated = false ∨ c ∈ latchStates s.latchMode) := by simp [gated, noLatch]
    rw [exec_encwUpdate_changed s update changed, takeSample, moved, if_neg (mt gate.1 closed)]
    rfl

/-- Between bounds in order the range wrap stays, and past a bound it goes to the other one (41_quadrature_decoder.md R153). -/
theorem wrapRange_spec (lo hi r : Int) (ordered : lo ≤ hi) :
    (lo ≤ wrapRange lo hi r ∧ wrapRange lo hi r ≤ hi) ∧ (hi < r → wrapRange lo hi r = lo) ∧
    (r < lo → wrapRange lo hi r = hi) := by
  unfold wrapRange
  split
  · omega
  · split <;> omega

/-- With the range wrap on, a move between bounds in order needs no truncation: the bounds are in the width. -/
theorem movedRaw_clamped (s : State) (d : Int) (sound : Inv s) (clamped : s.clampEn = true) (ordered : s.minPos ≤ s.maxPos)
    (moving : d ≠ 0) : movedRaw s d = wrapRange s.minPos s.maxPos (s.raw + d) := by
  obtain ⟨legal, ⟨-, -, -, minPos, maxPos⟩, -⟩ := sound
  obtain ⟨⟨above, below⟩, -⟩ := wrapRange_spec s.minPos s.maxPos (s.raw + d) ordered
  have inRange : inWidth s.cfg.rawW (wrapRange s.minPos s.maxPos (s.raw + d)) :=
    ⟨minPos.1.trans above, below.trans_lt maxPos.2⟩
  rw [movedRaw, clamped, Bool.true_and, if_pos (bne_iff_ne.2 moving), truncN_of_inWidth _ _ (rawW_pos _ legal) inRange]

/-- Settles O49: a delta that is not zero means a changed sample, whose move is the range wrap of the exact sum. -/
theorem rangeWrapBounds : Obligations.RangeWrapBounds := by
  intro s t sound update clamped ordered moving next
  have changed : sampleOf s.syncA s.syncB ≠ s.prevSample := fun same => moving (same ▸ dirDelta_self _)
  rw [exec_encwUpdate_changed s update changed] at next
  cases next
  rw [takeSample_raw, movedRaw_clamped s _ sound clamped ordered moving]
  exact wrapRange_spec _ _ _ ordered

end Sys2Proof

/-!
SUPPORT. The LED-encoder family: lists made of blocks of one length, the bytes of a frame, the pin events of bytes and what a receiver
reads from them, the host's reads and writes of the LED registers, and a whole frame from the start step to idle.
-/

namespace Sys2Proof

open Sys2Proof.Machine

/-! ### Blocks of one length -/

/-- Where each element gives a block of `n` elements, position `n * j + r` is position `r` of the `j`-th block. -/
theorem getElem?_flatMap_blocks {α β : Type} (f : α → List β) (n : Nat) (block : ∀ a, (f a).length = n) (r : Nat) (hr : r < n)
    (xs : List α) (j : Nat) : (xs.flatMap f)[n * j + r]? = xs[j]?.bind fun a => (f a)[r]? := by
  induction xs generalizing j with
  | nil => simp
  | cons x xs ih =>
    rw [List.flatMap_cons]
    cases j with
    | zero =>
      rw [Nat.mul_zero, Nat.zero_add, List.getElem?_append_left (by rw [block]; exact hr)]
      rfl
    | succ j =>
      have next : n * (j + 1) + r = (f x).length + (n * j + r) := by rw [block]; ring
      rw [next, List.getElem?_append_right (Nat.le_add_right _ _), Nat.add_sub_cancel_left, ih]
      rfl

/-! ### The bytes of a frame (42_led_encoder.md R210, R211) -/

theorem flatMap_ledBytes_length (cs : List Colour) : (cs.flatMap ledBytes).length = 4 * cs.length := by
  simp [List.length_flatMap, ledBytes, mul_comm]

theorem frame_get_start (cs : List Colour) (k : Nat) (hk : k < 4) : (frame cs)[k]? = some 0x00 := by
  rw [frame, List.append_assoc, List.getElem?_append_left (by simpa using hk), List.getElem?_replicate_of_lt hk]

theorem frame_get_colour (cs : List Colour) (j r : Nat) (c : Colour) (hc : cs[j]? = some c) (hr : r < 4) :
    (frame cs)[4 + 4 * j + r]? = (ledBytes c)[r]? := by
  have block := getElem?_flatMap_blocks ledBytes 4 (fun _ => rfl) r hr cs j
  rw [hc, Option.bind_some] at block
  obtain ⟨hj, -⟩ := List.getElem?_eq_some_iff.1 hc
  have inBlocks : 4 * j + r < (cs.flatMap ledBytes).length := by
    rw [flatMap_ledBytes_length]
    omega
  rw [frame, List.append_assoc, Nat.add_assoc, List.getElem?_append_right (by simp), List.length_replicate, Nat.add_sub_cancel_left,
    List.getElem?_append_left inBlocks, block]

theorem frame_get_end (cs : List Colour) (k : Nat) (hk : k < endBytes cs.length) :
    (frame cs)[4 + 4 * cs.length + k]? = some 0xFF := by
  have before : (List.replicate 4 (0x00 : Byte) ++ cs.flatMap ledBytes).length = 4 + 4 * cs.length := by
    rw [List.length_append, List.length_replicate, flatMap_ledBytes_length]
  rw [frame, List.getElem?_append_right (by omega), before, Nat.add_sub_cancel_left, List.getElem?_replicate_of_lt hk]

/-- The header byte is `0xE0` plus the brightness: the five bits of the brightness are clear in `0xE0`. -/
theorem header_toNat (b : BitVec 5) : (0xE0 ||| b.setWidth 8 : Byte).toNat = 0xE0 + b.toNat := by
  revert b
  decide

/-- Settles O53: the three parts of a frame, one after another, the middle one in blocks of four bytes. -/
theorem frameLayout : Obligations.FrameLayout := fun cs =>
  ⟨frame_length cs, serialize_frame_length cs, frame_get_start cs,
    fun j c hc =>
      have byte := fun r => frame_get_colour cs j r c hc
      ⟨⟨_, byte 0 (by decide), header_toNat c.bright⟩, byte 1 (by decide), byte 2 (by decide), byte 3 (by decide)⟩,
    frame_get_end cs⟩

/-! ### Bytes on the wire (42_led_encoder.md R212, R217) -/

theorem byteBits_get (x : Byte) (k : Nat) (hk : k < 8) : (byteBits x)[k]? = some (x.getLsbD k) := by
  simp [byteBits, List.getElem?_range hk]

/-- Event `r` of bit `k` of byte `j`. -/
theorem serialize_get_bit (bytes : List Byte) (j k r : Nat) (x : Byte) (hx : bytes[j]? = some x) (hk : k < 8) (hr : r < 3) :
    (serialize bytes)[24 * j + 3 * k + r]? = (sendBit (x.getLsbD k))[r]? := by
  have position : 24 * j + 3 * k + r = 3 * (8 * j + k) + r := by ring
  rw [position, serialize, getElem?_flatMap_blocks sendBit 3 (fun _ => rfl) r hr,
    getElem?_flatMap_blocks byteBits 8 (fun _ => rfl) k hk, hx, Option.bind_some, byteBits_get x k hk, Option.bind_some]

/-- At the rising edge of each bit the data pin is at the level of the bit, whatever its level before. -/
theorem sampledBits_sendBit (d : Bool) (bs : List Bool) : sampledBits d (bs.flatMap sendBit) = bs := by
  induction bs generalizing d with
  | nil => rfl
  | cons b bs ih => exact congrArg (b :: ·) (ih b)

/-- The eight bits of a byte, least significant first, are read as that byte. -/
theorem bytesOfBits_byteBits (x : Byte) : bytesOfBits (byteBits x) = [x] := by
  revert x
  decide

theorem bytesOfBits_cons (x : Byte) (rest : List Bool) : bytesOfBits (byteBits x ++ rest) = x :: bytesOfBits rest := by
  obtain ⟨first, -⟩ := List.cons_eq_cons.1 (bytesOfBits_byteBits x)
  exact congrArg (· :: bytesOfBits rest) first

theorem bytesOfBits_flatMap (bytes : List Byte) : bytesOfBits (bytes.flatMap byteBits) = bytes := by
  induction bytes with
  | nil => rfl
  | cons x xs ih => rw [List.flatMap_cons, bytesOfBits_cons, ih]

theorem receiverView_serialize (bytes : List Byte) : receiverView (serialize bytes) = bytes := by
  rw [receiverView, serialize, sampledBits_sendBit, bytesOfBits_flatMap]

/-- Settles O54: the bytes are blocks of eight bits and the bits blocks of three events, and the receiver undoes both. -/
theorem receiverReadsBytesBack : Obligations.ReceiverReadsBytesBack := fun bytes =>
  ⟨fun j k x hx hk =>
    have event := fun r => serialize_get_bit bytes j k r x hx hk
    ⟨event 0 (by decide), event 1 (by decide), event 2 (by decide)⟩,
    serialize_length bytes, receiverView_serialize bytes⟩

/-! ### The levels of the pins after some events (42_led_encoder.md R217, R218) -/

/-- The level of a pin after some events, from the level `v` on; `lastLevel` is the one from a low pin on. -/
def levelAfter (p : Pin) (v : Bool) (es : List PinEvent) : Bool := es.foldl (fun v e => if e.pin = p then e.level else v) v

theorem levelAfter_false (p : Pin) (es : List PinEvent) : levelAfter p false es = lastLevel p es := rfl

theorem levelAfter_append (p : Pin) (v : Bool) (xs ys : List PinEvent) :
    levelAfter p v (xs ++ ys) = levelAfter p (levelAfter p v xs) ys := List.foldl_append

/-- After a last byte `x` the clock is low and the data pin at the most significant bit of `x`, the last one sent. -/
theorem levelAfter_lastByte (v : Bool) (bytes : List Byte) (x : Byte) :
    levelAfter .clk v (serialize (bytes ++ [x])) = false ∧ levelAfter .data v (serialize (bytes ++ [x])) = x.getLsbD 7 := by
  rw [serialize_append, levelAfter_append, levelAfter_append]
  exact ⟨rfl, rfl⟩

/-- The frame of an empty strip ends with its start bytes, any other one with a byte `0xFF` (42_led_encoder.md R218). -/
theorem frame_lastByte (cs : List Colour) : ∃ bytes, frame cs = bytes ++ [if cs.isEmpty then 0x00 else 0xFF] := by
  cases cs with
  | nil => exact ⟨List.replicate 3 0x00, rfl⟩
  | cons c cs =>
    have ends : endBytes (c :: cs).length = cs.length / 16 + 1 := by
      simp only [endBytes, List.length_cons]
      omega
    refine ⟨List.replicate 4 0x00 ++ (c :: cs).flatMap ledBytes ++ List.replicate (cs.length / 16) 0xFF, ?_⟩
    rw [frame, ends, List.replicate_succ' (n := cs.length / 16), ← List.append_assoc]
    rfl

/-- After a whole frame the clock is low, and the data pin at 1 exactly for a strip that is not empty (42_led_encoder.md R218). -/
theorem levelAfter_frame (v : Bool) (cs : List Colour) :
    levelAfter .clk v (serialize (frame cs)) = false ∧ levelAfter .data v (serialize (frame cs)) = !cs.isEmpty := by
  obtain ⟨bytes, last⟩ := frame_lastByte cs
  obtain ⟨clk, data⟩ := levelAfter_lastByte v bytes (if cs.isEmpty then 0x00 else 0xFF)
  rw [last]
  exact ⟨clk, data.trans (by cases cs.isEmpty <;> rfl)⟩

/-! ### From the start step to idle (42_led_encoder.md R215, R216) -/

/-- Settles O31: in each phase the worker's turn is its step, and the position says whether the event is the last one. -/
theorem startAndTransmitSteps : Obligations.StartAndTransmitSteps := fun s =>
  ⟨exec_turn_taken .ledwStart s,
    fun e sending event more =>
      (exec_turn_taken .ledwTx s sending).trans (congrArg _ (transmit_next s e event more.ne)),
    fun e sending event last => (exec_turn_taken .ledwTx s sending).trans (congrArg _ (transmit_last s e event last))⟩

/-- With `n + 1` events left in the frame, as many turns of LEDW send them all and end the frame. -/
theorem turns_ledwTx (n : Nat) (s : State) (sending : s.ledwPh = .tx) (left : s.txPos + (n + 1) = s.txFrame.length) :
    turns .ledwTx (n + 1) s = { s with
      trace := s.trace ++ s.txFrame.drop s.txPos
      txFrame := []
      txPos := 0
      ledwPh := .idle
      clkPin := levelAfter .clk s.clkPin (s.txFrame.drop s.txPos)
      dataPin := levelAfter .data s.dataPin (s.txFrame.drop s.txPos) } := by
  induction n generalizing s with
  | zero =>
    have inFrame : s.txPos < s.txFrame.length := by omega
    have rest : s.txFrame.drop s.txPos = [s.txFrame[s.txPos]] := by
      rw [List.drop_eq_getElem_cons inFrame, List.drop_of_length_le (by omega)]
    rw [turns, turns, afterTurn_enabled _ _ ((enabled_iff .ledwTx s).2 sending), agentEffect,
      transmit_last s _ (List.getElem?_eq_getElem inFrame) left, rest]
    rfl
  | succ n ih =>
    have inFrame : s.txPos < s.txFrame.length := by omega
    rw [turns, afterTurn_enabled _ _ ((enabled_iff .ledwTx s).2 sending), agentEffect,
      transmit_next s _ (List.getElem?_eq_getElem inFrame) (by omega)]
    refine (ih _ ?phase ?left).trans ?_
    case phase => exact sending
    case left => dsimp only; omega
    rw [List.drop_eq_getElem_cons inFrame, List.append_cons s.trace _ (s.txFrame.drop (s.txPos + 1))]
    rfl

theorem serialize_flatMap {α : Type} (f : α → List Byte) (xs : List α) :
    serialize (xs.flatMap f) = xs.flatMap fun x => serialize (f x) := by
  simp only [serialize, List.flatMap_assoc]

theorem Inv.trace {s : State} (h : Inv s) : TraceOk s := by
  obtain ⟨-, -, -, -, -, -, -, -, -, trace, -⟩ := h
  exact trace

/-- In a sound state outside TX no part of a frame has been sent, so the trace is the serialisation of whole frames. -/
theorem trace_wholeFrames (s : State) (sound : Inv s) (silent : s.ledwPh ≠ .tx) :
    ∃ fs : List (List Colour), (∀ cs ∈ fs, cs.length ≤ s.cfg.ledCap) ∧ s.trace = serialize (fs.flatMap frame) := by
  obtain ⟨noFrame, -⟩ := sound.frame.1 silent
  obtain ⟨fs, short, sent⟩ := sound.trace
  rw [noFrame, List.take_nil, List.append_nil] at sent
  exact ⟨fs, short, sent.trans (serialize_flatMap frame fs).symm⟩

/-- Settles O55: the start step puts the whole frame before the transmit steps, and a receiver reads back the frames sent. -/
theorem wholeFrameIsSent : Obligations.WholeFrameIsSent := by
  refine ⟨fun s start => ?_, fun s sound silent => ?_⟩
  · obtain ⟨n, events⟩ : ∃ n, frameEvents s.buf.length = n + 1 := Nat.exists_eq_succ_of_ne_zero (frameEvents_pos _).ne'
    have left : 0 + (n + 1) = (serialize (frame s.buf)).length := by rw [serialize_frame_length, events, Nat.zero_add]
    rw [events, afterTurn_enabled _ _ ((enabled_iff .ledwStart s).2 start)]
    refine (turns_ledwTx n (startFrame s) rfl left).trans ?_
    simp only [startFrame, List.drop_zero, levelAfter_frame]
  · obtain ⟨fs, short, sent⟩ := trace_wholeFrames s sound silent
    exact ⟨fs, short, by rw [sent, receiverView_serialize]⟩

/-! ### Reads of the LED registers (42_led_encoder.md R204 to R213) -/

/-- A read row whose register reads as `v` answers `v`. -/
theorem readsAs_of_readReg_eq (r : RegName) (i : Word → Instr) (v : State → Word)
    (word : ∀ d, encode (i d) = some (txWord 0 r.offset d)) (arm : ∀ d s, exec (i d) s = hostRead r s)
    (value : ∀ s, readReg r s = v s) : ReadsAs r.offset i v := by
  have same : readReg r = v := funext value
  exact same ▸ readsAs_readReg r i word arm

/-- `BUSY` reads as 1 exactly in phase TX (42_led_encoder.md R213). -/
theorem readReg_ledStatus (s : State) : readReg .ledStatus s = if s.ledwPh = .tx then 1 else 0 := by
  rw [readReg, State.busy]
  cases s.ledwPh <;> rfl

/-- Settles O5: each row is the read of its register. -/
theorem ledRegisterReads : Obligations.LedRegisterReads :=
  ⟨readsAs_readReg .ledLen _ (fun _ => rfl) fun _ _ => rfl, readsAs_readReg .ledCap _ (fun _ => rfl) fun _ _ => rfl,
    readsAs_of_readReg_eq .ledResult _ _ (fun _ => rfl) (fun _ _ => rfl) fun s => by rw [readReg]; cases s.result <;> rfl,
    readsAs_of_readReg_eq .ledStatus _ _ (fun _ => rfl) (fun _ _ => rfl) readReg_ledStatus,
    readsAs_readReg .ledIndex _ (fun _ => rfl) fun _ _ => rfl, readsAs_readReg .ledSetOne _ (fun _ => rfl) fun _ _ => rfl,
    readsAs_readReg .ledSetAll _ (fun _ => rfl) fun _ _ => rfl⟩

theorem elementMapped_iff (c : Config) (i : BitVec 8) : elementMapped c i = true ↔ i.toNat < c.ledCap := decide_eq_true_iff

theorem elementMapped_eq_false_iff (c : Config) (i : BitVec 8) : elementMapped c i = false ↔ c.ledCap ≤ i.toNat := by
  rw [← Bool.not_eq_true, elementMapped_iff, not_lt]

theorem readReg_ledStage_mapped (i : BitVec 8) (s : State) (c : Colour) (mapped : i.toNat < s.cfg.ledCap)
    (staged : s.stage[i.toNat]? = some c) : readReg (.ledStage i) s = colourWord c := by
  rw [readReg, if_pos ((elementMapped_iff _ _).2 mapped), staged]
  rfl

theorem readReg_ledBuf_mapped (i : BitVec 8) (s : State) (c : Colour) (mapped : i.toNat < s.cfg.ledCap)
    (stored : s.buf[i.toNat]? = some c) : readReg (.ledBuf i) s = colourWord c := by
  rw [readReg, if_pos ((elementMapped_iff _ _).2 mapped), stored]
  rfl

/-- A buffer entry at or above the current length reads 0, mapped or not (42_led_encoder.md R206). -/
theorem readReg_ledBuf_dropped (i : BitVec 8) (s : State) (dropped : s.buf.length ≤ i.toNat) : readReg (.ledBuf i) s = 0 := by
  rw [readReg, List.getElem?_eq_none dropped]
  exact ite_self _

/-- An array element at or above `LED_CAP` reads 0 in either window (30_encoding.md R100). -/
theorem readReg_array_unmapped (i : BitVec 8) (s : State) (unmapped : s.cfg.ledCap ≤ i.toNat) :
    readReg (.ledStage i) s = 0 ∧ readReg (.ledBuf i) s = 0 := by
  have off : elementMapped s.cfg i = false := (elementMapped_eq_false_iff _ _).2 unmapped
  rw [readReg, readReg, off]
  exact ⟨rfl, rfl⟩

/-- Settles O6: each row is the read of its element, by whether the element is mapped and stored. -/
theorem ledArrayReads : Obligations.LedArrayReads := by
  intro i d s
  have answer : ∀ (r : RegName) (v : Word), readReg r s = v → hostRead r s = .next { s with rdata := some v } :=
    fun r v value => value ▸ rfl
  exact ⟨stageOff_eq i ▸ rfl, bufOff_eq i ▸ rfl,
    fun c mapped staged => answer (.ledStage i) _ (readReg_ledStage_mapped i s c mapped staged),
    fun c mapped stored => answer (.ledBuf i) _ (readReg_ledBuf_mapped i s c mapped stored),
    fun dropped => answer (.ledBuf i) 0 (readReg_ledBuf_dropped i s dropped),
    fun unmapped =>
      have ⟨stage, buf⟩ := readReg_array_unmapped i s unmapped
      ⟨answer (.ledStage i) 0 stage, answer (.ledBuf i) 0 buf⟩⟩

/-! ### Writes of the LED registers (42_led_encoder.md R200 to R203) -/

theorem writeReg_ledStage_mapped (i : BitVec 8) (v : Word) (s : State) (mapped : i.toNat < s.cfg.ledCap) :
    writeReg (.ledStage i) v s = { s with stage := s.stage.set i.toNat (colourOfWord v) } :=
  if_pos ((elementMapped_iff _ _).2 mapped)

theorem writeReg_ledStage_unmapped (i : BitVec 8) (v : Word) (s : State) (unmapped : s.cfg.ledCap ≤ i.toNat) :
    writeReg (.ledStage i) v s = s :=
  if_neg (by rw [(elementMapped_eq_false_iff _ _).2 unmapped]; exact Bool.false_ne_true)

/-- A host write answers the state its write rule leaves. -/
theorem hostWrite_of_writeReg_eq (r : RegName) (v : Word) (s t : State) (rule : writeReg r v s = t) :
    hostWrite r v s = .next { t with rdata := none } := rule ▸ rfl

/-- Settles O11: the rows are the writes of `INDEX` and of the staging element, which is mapped below `LED_CAP`. -/
theorem ledIndexAndStageWrites : Obligations.LedIndexAndStageWrites :=
  ⟨writesAs_writeReg .ledIndex _ (fun _ => rfl) fun _ _ => rfl, fun i v s =>
    ⟨stageOff_eq i ▸ rfl,
      fun mapped => hostWrite_of_writeReg_eq (.ledStage i) v s _ (writeReg_ledStage_mapped i v s mapped),
      fun unmapped => hostWrite_of_writeReg_eq (.ledStage i) v s _ (writeReg_ledStage_unmapped i v s unmapped)⟩⟩

/-- In a legal configuration a set command raises exactly the bit `UPDATE` (40_event_flags.md R121). -/
theorem setEvents_update (s : State) (legal : s.cfg.legal) :
    setEvents .led updateEvent s = { s with evLed := { s.evLed with ef := s.evLed.ef ||| 1 } } := by
  rw [← updateEvent_mask s.cfg legal]
  rfl

/-- A set one at or above the current length reports OUT_OF_RANGE (42_led_encoder.md R201). -/
theorem setOne_outOfRange (c : Colour) (s : State) (outOfRange : s.len ≤ s.index.toNat) :
    setOne c s = { s with result := .outOfRange } := if_neg (not_lt.2 outOfRange)

/-- A set all above the current length reports CAPACITY_EXCEEDED (42_led_encoder.md R202). -/
theorem setAll_exceeds (k : Word) (s : State) (exceeds : s.len < k.toNat) :
    setAll k s = { s with result := .capacityExceeded } := if_pos exceeds

/-- Settles O12: the index against the current length decides the outcome. -/
theorem setOneWrite : Obligations.SetOneWrite := fun v s legal =>
  ⟨rfl,
    fun inRange => hostWrite_of_writeReg_eq .ledSetOne v s _ <|
      (setOne_inRange (colourOfWord v) s inRange).trans (setEvents_update _ legal),
    fun outOfRange => hostWrite_of_writeReg_eq .ledSetOne v s _ (setOne_outOfRange (colourOfWord v) s outOfRange)⟩

/-- Settles O13: the count against the current length decides the outcome. -/
theorem setAllWrite : Obligations.SetAllWrite := fun k s legal =>
  ⟨rfl,
    fun fits => hostWrite_of_writeReg_eq .ledSetAll k s _ ((setAll_fits k s fits).trans (setEvents_update _ legal)),
    fun exceeds => hostWrite_of_writeReg_eq .ledSetAll k s _ (setAll_exceeds k s exceeds)⟩

end Sys2Proof

/-!
SUPPORT. The reset and hazards family: the reset state, the work left at quiescence, a strip that was shrunk, the encoder's published
elements between two readings of `SEQ`, and one changed pad under every schedule.
-/

namespace Sys2Proof

open Sys2Proof.Machine

/-! ### The reset state (70_reset_and_hazards.md R280, R281) -/

/-- A reset leaves the reset state of the configuration, but for the fields of the model itself (assumption log 6). -/
theorem resetBlock_eq_atReset (a b : Bool) (s : State) :
    resetBlock a b s = { State.atReset s.cfg a b with rdata := s.rdata, agenda := s.agenda, draws := s.draws } := rfl

/-- Settles O32: a reset is always enabled. -/
theorem resetStep : Obligations.ResetStep := fun a b s =>
  (exec_turn_taken (.reset a b) s trivial).trans (congrArg _ (resetBlock_eq_atReset a b s))

theorem legal_reference : Config.reference.legal := by decide

/-- The reset state is what a reset makes of it, and so it is sound. -/
theorem inv_atReset (c : Config) (a b : Bool) (legal : c.legal) : Inv (State.atReset c a b) :=
  inv_resetBlock a b (State.atReset c a b) legal

/-- Settles O36. -/
theorem invAtReset : Obligations.InvAtReset :=
  ⟨inv_atReset, inv_atReset Config.reference false false legal_reference⟩

/-! ### No work is left exactly at quiescence (70_reset_and_hazards.md R285) -/

theorem workLeft_of_quiescent (s : State) (quiet : quiescent s) : workLeft s = 0 := by
  obtain ⟨syncA, syncB, ⟨encPh, encEf⟩, ledPh, ledEf⟩ := quiet
  simp [workLeft, syncWork, encWork, ledWork, ledPending, syncA, syncB, encPh, encEf, ledPh, ledEf]

/-- An enabled internal step would lower the work left, and there is none to lower. -/
theorem quiescent_of_workLeft (s : State) (sound : Inv s) (noWork : workLeft s = 0) : quiescent s := by
  rw [quiescent_iff_none_enabled]
  intro a internal
  by_contra en
  have paid := workLeft_agentEffect a internal s sound (Bool.eq_true_of_not_eq_false en)
  omega

/-- Settles O58. -/
theorem quiescentMeansNoWork : Obligations.QuiescentMeansNoWork := fun s sound =>
  ⟨quiescent_iff_none_enabled s, workLeft_of_quiescent s, quiescent_of_workLeft s sound⟩

/-! ### A strip that was shrunk (70_reset_and_hazards.md R294) -/

/-- A set all that fits leaves a strip of exactly as many colours as it asked for (42_led_encoder.md R202). -/
theorem setAll_len_of_fits (k : Word) (s : State) (strip : StripOk s) (fits : k.toNat ≤ s.len) :
    (setAll k s).len = k.toNat := by
  obtain ⟨within, staged⟩ := strip
  rw [setAll_fits k s fits]
  exact List.length_take_of_le (by omega)

/-- A set one at an index at or above the current length fails and leaves the strip (42_led_encoder.md R201). -/
theorem execAll_setOne_outOfRange (n v : Word) (t : State) (outOfRange : t.len ≤ n.toNat) :
    ∃ u, execAll [.wrLedIndex n, .wrLedSetOne v] t = .next u ∧ u.result = .outOfRange ∧ u.buf = t.buf := by
  have indexed : exec (.wrLedIndex n) t = .next { t with index := n, rdata := none } := rfl
  have failed : exec (.wrLedSetOne v) { t with index := n, rdata := none } =
      .next { t with index := n, rdata := none, result := .outOfRange } :=
    hostWrite_of_writeReg_eq .ledSetOne v _ _ (setOne_outOfRange (colourOfWord v) _ outOfRange)
  exact ⟨_, (execAll_cons _ _ _ _ indexed).trans (execAll_cons _ [] _ _ failed), rfl, rfl⟩

/-- A set all of a count above the current length fails and leaves the strip (42_led_encoder.md R202). -/
theorem execAll_setAll_exceeds (n : Word) (t : State) (exceeds : t.len < n.toNat) :
    ∃ u, execAll [.wrLedSetAll n] t = .next u ∧ u.result = .capacityExceeded ∧ u.buf = t.buf := by
  have failed : exec (.wrLedSetAll n) t = .next { t with result := .capacityExceeded, rdata := none } :=
    hostWrite_of_writeReg_eq .ledSetAll n t _ (setAll_exceeds n t exceeds)
  exact ⟨_, execAll_cons _ [] _ _ failed, rfl, rfl⟩

/-- Settles O56: the shrunk strip has `k` colours, so every index from `k` on and every count above `k` is out of its range. -/
theorem shrinkIsIrreversible : Obligations.ShrinkIsIrreversible := by
  intro k n v s t sound shrinks next
  have len : t.len = k.toNat := by
    rw [(hostWrite_next .ledSetAll k s t).1 next]
    exact setAll_len_of_fits k s sound.strip shrinks.le
  exact ⟨len, fun beyond => execAll_setOne_outOfRange n v t (len ▸ beyond),
    fun exceeds => execAll_setAll_exceeds n t (len ▸ exceeds)⟩

end Sys2Proof

namespace Sys2Proof

open Sys2Proof.Machine

/-! ### The encoder's published elements and `SEQ` (41_quadrature_decoder.md R152, R160) -/

/-- What the host reads of the encoder between two readings of `SEQ`, and `SEQ` itself (70_reset_and_hazards.md R291). -/
def published (s : State) : Word × Int × Int × Int × BitVec 2 × Word × Word :=
  (s.seq, s.raw, s.ext, s.extPrev, s.prevSample, s.tLast, s.tPrev)

theorem published_eq_iff {s t : State} : published t = published s ↔
    t.seq = s.seq ∧ t.raw = s.raw ∧ t.ext = s.ext ∧ t.extPrev = s.extPrev ∧ t.prevSample = s.prevSample ∧
    t.tLast = s.tLast ∧ t.tPrev = s.tPrev := by
  simp only [published, Prod.mk.injEq]

/-- A set position is the only register write that changes a published element. -/
theorem published_writeReg (r : RegName) (v : Word) (s : State) (notPos : r ≠ .encPos) :
    published (writeReg r v s) = published s := by
  cases r
  case encPos => exact absurd rfl notPos
  case efEnc | efLed | ledSetOne | ledSetAll => simp [published, writeReg]
  case ledStage i => simp only [writeReg]; split <;> rfl
  all_goals rfl

/-- No agent step but an update and a reset changes a published element. -/
theorem published_agentEffect (a : AgentStep) (s : State) (notUpdate : a ≠ .encwUpdate) (notReset : isReset a.toInstr = false) :
    published (agentEffect a s) = published s := by
  cases a
  case syncA | syncB | ledwTx => simp [published, agentEffect]
  case encwUpdate => exact absurd rfl notUpdate
  case reset a b => cases notReset
  all_goals rfl

/-- A host transaction other than a set position changes no published element. -/
theorem published_of_transaction (i : Instr) (s t : State) (bus : i.isAgentStep = false) (notPos : ∀ v, i ≠ .wrEncPos v)
    (next : exec i s = .next t) : published t = published s := by
  have written : ∀ (r : RegName) (v : Word), r ≠ .encPos → hostWrite r v s = .next t → published t = published s := by
    intro r v notPos write
    rw [(hostWrite_next r v s t).1 write]
    exact published_writeReg r v s notPos
  cases i
  case wrEncPos v => exact absurd rfl (notPos v)
  case wrLedSetOne v => exact written .ledSetOne v nofun next
  case wrLedSetAll v => exact written .ledSetAll v nofun next
  case wrLedStage k v => exact written (.ledStage k) v nofun next
  all_goals cases bus
  all_goals cases next
  all_goals rfl

/-- From `s` to `t` `SEQ` was raised at most `n` times, and what is published is as it was when it was not raised at all. -/
def raisedAtMost (n : Nat) (s t : State) : Prop :=
  ∃ k ≤ n, t.seq = s.seq + BitVec.ofNat 32 k ∧ (k = 0 → published t = published s)

theorem raisedAtMost_of_published_eq (n : Nat) {s t : State} (same : published t = published s) : raisedAtMost n s t :=
  ⟨0, Nat.zero_le n, (congrArg Prod.fst same).trans (BitVec.add_zero _).symm, fun _ => same⟩

theorem raisedAtMost_one {s t : State} (seq : t.seq = s.seq + 1) : raisedAtMost 1 s t := ⟨1, le_rfl, seq, nofun⟩

theorem raisedAtMost_trans {n m : Nat} {s t u : State} (first : raisedAtMost n s t) (second : raisedAtMost m t u) :
    raisedAtMost (n + m) s u := by
  obtain ⟨k, hk, seq, kept⟩ := first
  obtain ⟨l, hl, seq', kept'⟩ := second
  refine ⟨k + l, Nat.add_le_add hk hl, ?_, fun none => ?_⟩
  · rw [seq', seq, BitVec.ofNat_add, BitVec.add_assoc]
  · exact (kept' (by omega)).trans (kept (by omega))

theorem raisedAtMost_mono {n m : Nat} {s t : State} (raised : raisedAtMost n s t) (le : n ≤ m) : raisedAtMost m s t := by
  obtain ⟨k, hk, rest⟩ := raised
  exact ⟨k, hk.trans le, rest⟩

/-- `SEQ` comes back to a value only after 2^32 raises, so with fewer of them equal values mean none in between. -/
theorem published_eq_of_seq_eq {n m : Nat} {s u t : State} (before : raisedAtMost n s u) (after : raisedAtMost m u t)
    (few : n + m < 2 ^ 32) (seq : t.seq = s.seq) : published u = published s ∧ published t = published u := by
  obtain ⟨k, hk, seqU, keptU⟩ := before
  obtain ⟨l, hl, seqT, keptT⟩ := after
  have back : s.seq + BitVec.ofNat 32 (k + l) = s.seq + 0#32 := by
    rw [BitVec.add_zero, BitVec.ofNat_add, ← BitVec.add_assoc, ← seqU, ← seqT, seq]
  have wraps : (k + l) % 2 ^ 32 = 0 := congrArg BitVec.toNat (add_left_cancel back)
  have none : k + l = 0 := by rwa [Nat.mod_eq_of_lt (by omega)] at wraps
  exact ⟨keptU (by omega), keptT (by omega)⟩

/-- An update that takes a sample raises `SEQ` once, and one that does not changes nothing (41_quadrature_decoder.md R152). -/
theorem raisedAtMost_update (s : State) : raisedAtMost 1 s { sampleEncoder s with encwPh := .idle } := by
  obtain same | taken := sampleEncoder_cases s
  · rw [same]
    exact raisedAtMost_of_published_eq 1 rfl
  · rw [taken]
    exact raisedAtMost_one rfl

/-- An operation without a reset raises `SEQ` at most once, and only when it is an update or a set position. -/
theorem raisedAtMost_exec (i : Instr) (s t : State) (notReset : isReset i = false) (next : exec i s = .next t) :
    raisedAtMost ([i].countP raisesSeq) s t := by
  by_cases agent : i.isAgentStep = true
  · obtain ⟨a, rfl⟩ := eq_toInstr_of_isAgentStep i agent
    rw [exec_toInstr, agentTurn_next] at next
    rw [next]
    split
    · by_cases update : a = .encwUpdate
      · subst update
        exact raisedAtMost_update s
      · exact raisedAtMost_of_published_eq _ (published_agentEffect a s update notReset)
    · exact raisedAtMost_of_published_eq _ rfl
  · by_cases pos : ∃ v, i = .wrEncPos v
    · obtain ⟨v, rfl⟩ := pos
      rw [(hostWrite_next .encPos v s t).1 next]
      exact raisedAtMost_one rfl
    · exact raisedAtMost_of_published_eq _
        (published_of_transaction i s t (Bool.eq_false_of_not_eq_true agent) (not_exists.1 pos) next)

/-- Operations without a reset raise `SEQ` at most as often as there are updates and set positions among them. -/
theorem raisedAtMost_execAll (is : List Instr) (s t : State) (noReset : ∀ i ∈ is, isReset i = false)
    (runs : execAll is s = .next t) : raisedAtMost (is.countP raisesSeq) s t := by
  induction is generalizing s with
  | nil =>
    cases runs
    exact raisedAtMost_of_published_eq 0 rfl
  | cons i is ih =>
    obtain ⟨notReset, noReset⟩ := List.forall_mem_cons.1 noReset
    cases next : exec i s with
    | next u =>
      rw [execAll_cons i is s u next] at runs
      rw [← List.singleton_append, List.countP_append]
      exact raisedAtMost_trans (raisedAtMost_exec i s u notReset next) (ih u noReset runs)
    | fault f => simp [execAll, next] at runs
    | refused r => simp [execAll, next] at runs

/-- Among the agents' turns only the updates raise `SEQ`. -/
theorem raisedAtMost_afterTurns (as : List AgentStep) (s : State) (noReset : ∀ a ∈ as, isReset a.toInstr = false) :
    raisedAtMost (as.count .encwUpdate) s (afterTurns as s) := by
  have updates : raisesSeq ∘ AgentStep.toInstr = (· == .encwUpdate) := by
    funext a
    cases a <;> rfl
  have raised := raisedAtMost_execAll (as.map AgentStep.toInstr) s (afterTurns as s) (by simpa using noReset)
    (by simpa [execAll] using execAll_turns as [] s)
  rwa [List.countP_map, updates] at raised

/-! ### The reads of `enc_snapshot` (30_encoding.md R104) -/

/-- The line `rd` of a register outside the array windows returns what the register reads as. -/
theorem perform_rd (r : RegName) (named : r ∈ namedRegs) (s : State) :
    perform (rd r) s = .next { s with rdata := some (readReg r s) } := by
  have outside : aligned r.offset = true ∧ inWindow r.offset = false := by
    revert r
    decide
  obtain ⟨decoded, -⟩ := decodeFields_named r.offset 0 outside.1 outside.2
  obtain ⟨read, -⟩ := exec_decodeNamed_offset r named 0 s
  calc perform (rd r) s
    _ = exec (decodeFields 0 r.offset 0) s := step_txWord 0 r.offset 0 s s.agenda
    _ = hostRead r s := by rw [decoded, read]

/-- The answer to the host is nothing a register reads. -/
theorem readReg_rdata (r : RegName) (s : State) (v : Option Word) : readReg r { s with rdata := v } = readReg r s := by
  cases r <;> rfl

theorem readAll_cons (r : RegName) (rs : List RegName) (gaps : List (List AgentStep)) (s u : State) (named : r ∈ namedRegs)
    (turns : afterTurns (gaps.headD []) s = u) :
    readAll (r :: rs) gaps s =
      (readReg r u :: (readAll rs gaps.tail { u with rdata := some (readReg r u) }).1,
        (readAll rs gaps.tail { u with rdata := some (readReg r u) }).2) := by
  rw [readAll, turns, perform_rd r named u]
  rfl

/-- The turns before the first read and those before the others. -/
theorem flatten_eq_headD_append (gaps : List (List AgentStep)) : gaps.flatten = gaps.headD [] ++ gaps.tail.flatten := by
  cases gaps <;> rfl

theorem raisedAtMost_readAll (rs : List RegName) (gaps : List (List AgentStep)) (s : State) (named : ∀ r ∈ rs, r ∈ namedRegs)
    (noReset : ∀ a ∈ gaps.flatten, isReset a.toInstr = false) :
    raisedAtMost (gaps.flatten.count .encwUpdate) s (readAll rs gaps s).2 := by
  induction rs generalizing gaps s with
  | nil => exact raisedAtMost_of_published_eq _ rfl
  | cons r rs ih =>
    obtain ⟨hr, named⟩ := List.forall_mem_cons.1 named
    rw [flatten_eq_headD_append] at noReset ⊢
    obtain ⟨noResetNow, noResetLater⟩ := List.forall_mem_append.1 noReset
    rw [readAll_cons r rs gaps s _ hr rfl, List.count_append]
    exact raisedAtMost_trans (raisedAtMost_afterTurns _ s noResetNow) (ih _ { afterTurns _ s with rdata := _ } named noResetLater)

/-- The last of the words read is of the state after the reads. -/
theorem readAll_getLast (rs : List RegName) (last : RegName) (gaps : List (List AgentStep)) (s : State)
    (named : ∀ r ∈ rs ++ [last], r ∈ namedRegs) :
    (readAll (rs ++ [last]) gaps s).1.getLast? = some (readReg last (readAll (rs ++ [last]) gaps s).2) := by
  induction rs generalizing gaps s with
  | nil =>
    rw [List.nil_append, readAll_cons last [] gaps s _ (named last (by simp)) rfl]
    exact congrArg some (readReg_rdata last _ _).symm
  | cons r rs ih =>
    obtain ⟨hr, named⟩ := List.forall_mem_cons.1 named
    rw [List.cons_append, readAll_cons r _ gaps s _ hr rfl, List.getLast?_cons, ih _ _ named]
    rfl

/-- When `SEQ` is in the end what it was at the start, every word was read from a state that publishes what the last one does. -/
theorem readAll_words (rs : List RegName) (gaps : List (List AgentStep)) (s : State) (named : ∀ r ∈ rs, r ∈ namedRegs)
    (few : gaps.flatten.count .encwUpdate < 2 ^ 32) (noReset : ∀ a ∈ gaps.flatten, isReset a.toInstr = false)
    (seq : (readAll rs gaps s).2.seq = s.seq) :
    List.Forall₂ (fun r w => ∃ u, published u = published (readAll rs gaps s).2 ∧ w = readReg r u) rs (readAll rs gaps s).1 := by
  induction rs generalizing gaps s with
  | nil => exact .nil
  | cons r rs ih =>
    obtain ⟨hr, named⟩ := List.forall_mem_cons.1 named
    rw [flatten_eq_headD_append] at few noReset
    rw [List.count_append] at few
    obtain ⟨noResetNow, noResetLater⟩ := List.forall_mem_append.1 noReset
    have before := raisedAtMost_afterTurns _ s noResetNow
    generalize turns : afterTurns (gaps.headD []) s = u at before
    rw [readAll_cons r rs gaps s u hr turns] at seq ⊢
    have after : raisedAtMost _ u _ := raisedAtMost_readAll rs gaps.tail { u with rdata := some (readReg r u) } named noResetLater
    obtain ⟨keptU, keptT⟩ := published_eq_of_seq_eq before after few seq
    have seqU : u.seq = s.seq := congrArg Prod.fst keptU
    exact .cons ⟨u, keptT.symm, rfl⟩ (ih gaps.tail _ named (by omega) noResetLater (seq.trans seqU.symm))

/-- `PREV_SAMPLE` and `DIR` are the low four bits of the status word, `PINS` the bits above them (41_quadrature_decoder.md R174). -/
theorem statusWord_low (s : State) :
    (statusWord s).extractLsb' 0 4 = BitVec.ofNat 4 (s.prevSample.toNat + 4 * dirCode s.dir) := by
  have low : ∀ x pins : Nat, (BitVec.ofNat 32 (x + 16 * pins)).extractLsb' 0 4 = BitVec.ofNat 4 x := by
    intro x pins
    apply BitVec.eq_of_toNat_eq
    simp only [BitVec.extractLsb'_toNat, BitVec.toNat_ofNat, Nat.shiftRight_zero]
    omega
  exact low _ _

/-- The direction is derived from published elements (10_state.md R36). -/
theorem dir_of_published_eq {s t : State} (same : published t = published s) : t.dir = s.dir := by
  obtain ⟨-, -, ext, extPrev, -⟩ := published_eq_iff.1 same
  rw [State.dir, State.dir, ext, extPrev]

theorem encSnapshotReads_named : ∀ r ∈ encSnapshotReads, r ∈ namedRegs := by decide

/-- The words of `enc_snapshot` are those of one state: `SEQ` twice, the positions, the times, and a status word with its sample and
its direction. -/
def isSnapshotOf (t : State) (ws : List Word) : Prop :=
  ∃ status : Word,
    ws = [t.seq, BitVec.ofInt 32 t.ext, BitVec.ofInt 32 t.extPrev, status, t.tLast, t.tPrev, t.seq] ∧
    status.extractLsb' 0 4 = BitVec.ofNat 4 (t.prevSample.toNat + 4 * dirCode t.dir)

/-- Words read register by register from states that publish what `t` does are a snapshot of `t`. -/
theorem isSnapshotOf_words (t : State) (ws : List Word)
    (words : List.Forall₂ (fun r w => ∃ u, published u = published t ∧ w = readReg r u) encSnapshotReads ws) :
    isSnapshotOf t ws := by
  obtain _ | ⟨⟨_, first, rfl⟩, _ | ⟨⟨_, ext, rfl⟩, _ | ⟨⟨_, extPrev, rfl⟩, _ | ⟨⟨u, status, rfl⟩, _ | ⟨⟨_, tLast, rfl⟩,
    _ | ⟨⟨_, tPrev, rfl⟩, _ | ⟨⟨_, last, rfl⟩, ⟨⟩⟩⟩⟩⟩⟩⟩⟩ := words
  have dir := dir_of_published_eq status
  simp only [published_eq_iff] at first ext extPrev status tLast tPrev last
  obtain ⟨-, -, -, -, sample, -⟩ := status
  refine ⟨statusWord u, ?_, by rw [statusWord_low, sample, dir]⟩
  simp only [readReg, u32, first, ext, extPrev, tLast, tPrev, last]

/-- The two readings of `SEQ` in a pass: of the state before its first read, and of the state after the pass. -/
theorem encSnapshotReads_ends (gaps : List (List AgentStep)) (s : State) :
    (readAll encSnapshotReads gaps s).1.head? = some (afterTurns (gaps.headD []) s).seq ∧
    (readAll encSnapshotReads gaps s).1.getLast? = some (readAll encSnapshotReads gaps s).2.seq := by
  constructor
  · rw [encSnapshotReads, readAll_cons .encSeq _ gaps s _ (by decide) rfl]
    rfl
  · exact readAll_getLast encSnapshotReads.dropLast .encSeq gaps s encSnapshotReads_named

/-- A pass whose two readings of `SEQ` are equal answers a snapshot of the state after it: from the first reading to the last `SEQ`
was never raised. -/
theorem isSnapshotOf_pass (gaps : List (List AgentStep)) (s : State) (few : gaps.flatten.count .encwUpdate < 2 ^ 32)
    (noReset : ∀ a ∈ gaps.flatten, isReset a.toInstr = false)
    (equal : (readAll encSnapshotReads gaps s).1.head? = (readAll encSnapshotReads gaps s).1.getLast?) :
    isSnapshotOf (readAll encSnapshotReads gaps s).2 (readAll encSnapshotReads gaps s).1 := by
  rw [flatten_eq_headD_append] at few noReset
  rw [List.count_append] at few
  obtain ⟨-, noResetLater⟩ := List.forall_mem_append.1 noReset
  have fromFirst : readAll encSnapshotReads gaps s =
      readAll encSnapshotReads ([] :: gaps.tail) (afterTurns (gaps.headD []) s) := rfl
  rw [fromFirst] at equal ⊢
  generalize afterTurns (gaps.headD []) s = u at equal ⊢
  obtain ⟨first, last⟩ := encSnapshotReads_ends ([] :: gaps.tail) u
  rw [first, last] at equal
  have seq : (readAll encSnapshotReads ([] :: gaps.tail) u).2.seq = u.seq := (Option.some.inj equal).symm
  refine isSnapshotOf_words _ _ (readAll_words _ ([] :: gaps.tail) u encSnapshotReads_named ?_ noResetLater seq)
  rw [List.flatten_cons, List.nil_append]
  omega

/-- The loop ends with a pass whose two readings of `SEQ` are equal. -/
theorem isSnapshotOf_encSnapshot (passes : List (List (List AgentStep))) (s t : State) (ws : List Word)
    (calm : ∀ gaps ∈ passes, gaps.flatten.count .encwUpdate < 2 ^ 32 ∧ ∀ a ∈ gaps.flatten, isReset a.toInstr = false)
    (ends : encSnapshot passes s = some (ws, t)) : isSnapshotOf t ws := by
  induction passes generalizing s with
  | nil => cases ends
  | cons gaps passes ih =>
    obtain ⟨⟨few, noReset⟩, calm⟩ := List.forall_mem_cons.1 calm
    rw [encSnapshot] at ends
    split at ends
    · next equal =>
      have snapshot := isSnapshotOf_pass gaps s few noReset equal
      rwa [Option.some.inj ends] at snapshot
    · exact ih _ calm ends

/-- A pass that nothing interrupts ends the loop: its reads leave `SEQ` as it is. -/
theorem encSnapshot_uninterrupted (passes : List (List (List AgentStep))) (s : State) :
    (encSnapshot ([] :: passes) s).isSome = true := by
  have kept := raisedAtMost_readAll encSnapshotReads [] s encSnapshotReads_named nofun
  obtain ⟨k, hk, seq, -⟩ := kept
  obtain rfl : k = 0 := Nat.le_zero.1 hk
  obtain ⟨first, last⟩ := encSnapshotReads_ends [] s
  have equal := first.trans (last.trans (congrArg some (seq.trans (BitVec.add_zero _)))).symm
  rw [encSnapshot, if_pos equal]
  rfl

/-- Settles O40: too few raises for `SEQ` to come back mean none, and a pass of `enc_snapshot` is such a stretch of operations. -/
theorem equalSeqMeansOneState : Obligations.EqualSeqMeansOneState := by
  refine ⟨fun before after s u t few noReset runsBefore runsAfter seq => ?_, isSnapshotOf_encSnapshot,
    encSnapshot_uninterrupted⟩
  obtain ⟨noResetBefore, noResetAfter⟩ := List.forall_mem_append.1 noReset
  rw [List.countP_append] at few
  obtain ⟨kept, -⟩ := published_eq_of_seq_eq (raisedAtMost_execAll before s u noResetBefore runsBefore)
    (raisedAtMost_execAll after u t noResetAfter runsAfter) few seq
  exact published_eq_iff.1 kept

end Sys2Proof

namespace Sys2Proof

open Sys2Proof.Machine

/-! ### One changed pad under every schedule (70_reset_and_hazards.md R297) -/

/-- How far the block has come with one changed pad: the synchroniser has not seen it; its edge event is pending; ENCW is about to
clear the event word; ENCW is about to update; the update is done. -/
inductive PadStage where
  | unseen
  | pending
  | clearing
  | updating
  | updated

/-- The levels of the synchronisers, the phase of ENCW and the event word at a stage of the change from the levels `p` to `q`. -/
def PadStage.holds (p q : Bool × Bool) : PadStage → State → Prop
  | .unseen, t => (t.syncA, t.syncB) = p ∧ t.encwPh = .idle ∧ t.evEnc.ef = 0
  | .pending, t => (t.syncA, t.syncB) = q ∧ t.encwPh = .idle ∧ t.evEnc.ef ≠ 0
  | .clearing, t => (t.syncA, t.syncB) = q ∧ t.encwPh = .clear
  | .updating, t => (t.syncA, t.syncB) = q ∧ t.encwPh = .update ∧ t.evEnc.ef = 0
  | .updated, t => (t.syncA, t.syncB) = q ∧ t.encwPh = .idle ∧ t.evEnc.ef = 0

/-- `t` is exactly one update past `s`, on the sample of the levels `q` (41_quadrature_decoder.md R152). -/
def updatedOnce (s : State) (q : Bool × Bool) (t : State) : Prop :=
  t.seq = s.seq + 1 ∧ t.prevSample = sampleOf q.1 q.2 ∧
  t.raw = movedRaw s (dirDelta (sampleOf s.padA s.padB) (sampleOf q.1 q.2)) ∧ t.tPrev = s.tLast ∧ t.extPrev = s.ext

/-- What is published at a stage: up to the update what `s` publishes, and then one update more, at the time of `s` unless TICK takes
turns. -/
def PadStage.publishes (s : State) (q : Bool × Bool) (ticks : Prop) : PadStage → State → Prop
  | .updated, t => updatedOnce s q t ∧ (¬ ticks → t.tLast = s.time)
  | _, t => published t = published s ∧ (¬ ticks → t.time = s.time)

/-- From `s`, whose pads were set to `q`, the block has come to the stage. -/
def reachesStage (s : State) (q : Bool × Bool) (ticks : Prop) (stage : PadStage) (t : State) : Prop :=
  (t.padA, t.padB) = q ∧ hostElements t = hostElements s ∧ stage.holds (s.padA, s.padB) q t ∧ stage.publishes s q ticks t

theorem updatedOnce_of_published_eq {s t u : State} {q : Bool × Bool} (once : updatedOnce s q t)
    (same : published u = published t) : updatedOnce s q u := by
  obtain ⟨seq, raw, -, extPrev, sample, -, tPrev⟩ := published_eq_iff.1 same
  simpa only [updatedOnce, seq, raw, extPrev, sample, tPrev] using once

/-- The elements of the encoder that a stage speaks of. -/
def stageElements (t : State) : (Bool × Bool) × (Bool × Bool) × EncwPhase × Word :=
  ((t.padA, t.padB), (t.syncA, t.syncB), t.encwPh, t.evEnc.ef)

/-- A step that leaves the encoder and its levels alone leaves the stage; only TICK may move the time. -/
theorem reachesStage_of_same {s t u : State} {q : Bool × Bool} {ticks : Prop} {stage : PadStage}
    (reached : reachesStage s q ticks stage t) (elements : stageElements u = stageElements t)
    (host : hostElements u = hostElements t) (same : published u = published t) (time : ¬ ticks → u.time = t.time) :
    reachesStage s q ticks stage u := by
  obtain ⟨pads, hostT, holds, publishes⟩ := reached
  simp only [stageElements, Prod.mk.injEq] at elements
  obtain ⟨⟨padA, padB⟩, ⟨syncA, syncB⟩, ph, ef⟩ := elements
  refine ⟨by rw [padA, padB, pads], host.trans hostT, ?_, ?_⟩
  · cases stage <;> simpa only [PadStage.holds, syncA, syncB, ph, ef] using holds
  · cases stage
    case updated =>
      obtain ⟨once, last⟩ := publishes
      obtain ⟨-, -, -, -, -, tLast, -⟩ := published_eq_iff.1 same
      exact ⟨updatedOnce_of_published_eq once same, fun calm => tLast.trans (last calm)⟩
    all_goals
      obtain ⟨kept, timeT⟩ := publishes
      exact ⟨same.trans kept, fun calm => (time calm).trans (timeT calm)⟩

/-- A move of the counter depends on the counter, its configuration and the bounds only. -/
theorem movedRaw_of_eq {s t : State} (d : Int) (host : hostElements t = hostElements s) (same : published t = published s) :
    movedRaw t d = movedRaw s d := by
  simp only [hostElements, Prod.mk.injEq] at host
  obtain ⟨cfg, ⟨-, -, clamp⟩, ⟨lo, hi⟩, -⟩ := host
  obtain ⟨-, raw, -⟩ := published_eq_iff.1 same
  rw [movedRaw, movedRaw, cfg, clamp, lo, hi, raw]

section
variable {s t : State} {q : Bool × Bool} {ticks : Prop} {stage : PadStage}

theorem reachesStage_tick (reached : reachesStage s q ticks stage t) (ticking : ticks) :
    reachesStage s q ticks stage (agentEffect .tick t) :=
  reachesStage_of_same reached rfl rfl rfl (absurd ticking)

/-- LEDW leaves the encoder alone (40_event_flags.md R120). -/
theorem reachesStage_led (reached : reachesStage s q ticks stage t) {a : AgentStep} (led : a ∈ workerSteps .led) :
    reachesStage s q ticks stage (agentEffect a t) := by
  have notReset : isReset a.toInstr = false := by
    revert a
    decide
  have notUpdate : a ≠ .encwUpdate := by
    revert a
    decide
  obtain ⟨ev, ph, -, -, -, -, -, -, time, -, -, -, -, -, -, padA, padB, syncA, syncB⟩ := sameEncoderElements_agentEffect a led t
  exact reachesStage_of_same reached (by simp only [stageElements, ev, ph, padA, padB, syncA, syncB])
    (hostElements_agentEffect a t notReset) (published_agentEffect a t notUpdate notReset) fun _ => time

/-- A synchroniser that takes the new levels leaves its edge event pending (41_quadrature_decoder.md R151). -/
theorem reachesStage_sync (reached : reachesStage s q ticks .unseen t) (on : t.en = true) (m : Word) (edge : m ≠ 0)
    (bit : m &&& efMask t.cfg = m) :
    reachesStage s q ticks .pending (edgeEvent m { t with syncA := q.1, syncB := q.2 }) := by
  obtain ⟨pads, host, ⟨-, idle, -⟩, publishes⟩ := reached
  rw [edgeEvent_on m { t with syncA := q.1, syncB := q.2 } bit on]
  exact ⟨pads, host, ⟨rfl, idle, fun zero => edge (BitVec.or_eq_zero_iff.1 zero).2⟩, publishes⟩

/-- Once a synchroniser has seen the change, both have the levels of the pads. -/
theorem reachesStage_seen (reached : reachesStage s q ticks stage t) (seen : stage ≠ .unseen) :
    t.syncA = t.padA ∧ t.syncB = t.padB := by
  obtain ⟨pads, -, holds, -⟩ := reached
  have sync : (t.syncA, t.syncB) = q := by
    cases stage
    case unseen => exact absurd rfl seen
    all_goals exact holds.1
  exact Prod.mk.inj (sync.trans pads.symm)

/-- The configuration and `EN` are those of `s` throughout. -/
theorem reachesStage_config (reached : reachesStage s q ticks stage t) : t.cfg = s.cfg ∧ t.en = s.en := by
  obtain ⟨-, host, -⟩ := reached
  simp only [hostElements, Prod.mk.injEq] at host
  obtain ⟨cfg, ⟨en, -⟩, -⟩ := host
  exact ⟨cfg, en⟩

/-- Of the two pads only one changed, so the synchroniser of the other has its new level already. -/
theorem reachesStage_otherPad (reached : reachesStage s q ticks .unseen t) (changed : onePad (s.padA, s.padB) q) :
    (t.syncA ≠ t.padA → t.syncB = q.2) ∧ (t.syncB ≠ t.padB → t.syncA = q.1) := by
  obtain ⟨pads, -, ⟨sync, -⟩, -⟩ := reached
  obtain ⟨syncA, syncB⟩ := Prod.mk.inj sync
  obtain ⟨-, sameB⟩ | ⟨sameA, -⟩ := changed
  · have seenB : t.syncB = q.2 := syncB.trans sameB.symm
    exact ⟨fun _ => seenB, fun moved => absurd (seenB.trans (congrArg Prod.snd pads).symm) moved⟩
  · have seenA : t.syncA = q.1 := syncA.trans sameA.symm
    exact ⟨fun moved => absurd (seenA.trans (congrArg Prod.fst pads).symm) moved, fun _ => seenA⟩

theorem reachesStage_syncA (reached : reachesStage s q ticks stage t) (legal : s.cfg.legal) (on : s.en = true)
    (changed : onePad (s.padA, s.padB) q) (moved : t.syncA ≠ t.padA) : reachesStage s q ticks .pending (agentEffect .syncA t) := by
  obtain rfl : stage = .unseen := by_contra fun seen => moved (reachesStage_seen reached seen).1
  obtain ⟨cfg, en⟩ := reachesStage_config reached
  have next := reachesStage_sync reached (en.trans on) edgeA (by decide) (edgeA_mask t.cfg (cfg ▸ legal))
  have padA : t.padA = q.1 := congrArg Prod.fst reached.1
  rwa [← padA, ← (reachesStage_otherPad reached changed).1 moved] at next

theorem reachesStage_syncB (reached : reachesStage s q ticks stage t) (legal : s.cfg.legal) (on : s.en = true)
    (changed : onePad (s.padA, s.padB) q) (moved : t.syncB ≠ t.padB) : reachesStage s q ticks .pending (agentEffect .syncB t) := by
  obtain rfl : stage = .unseen := by_contra fun seen => moved (reachesStage_seen reached seen).2
  obtain ⟨cfg, en⟩ := reachesStage_config reached
  have next := reachesStage_sync reached (en.trans on) edgeB (by decide) (edgeB_mask t.cfg (cfg ▸ legal))
  have padB : t.padB = q.2 := congrArg Prod.snd reached.1
  rwa [← padB, ← (reachesStage_otherPad reached changed).2 moved] at next

/-- ENCW's update takes the new sample, since the one it last took is that of the old levels (41_quadrature_decoder.md R152). -/
theorem reachesStage_update (reached : reachesStage s q ticks .updating t) (sampled : s.prevSample = sampleOf s.padA s.padB)
    (changed : onePad (s.padA, s.padB) q) : reachesStage s q ticks .updated (agentEffect .encwUpdate t) := by
  obtain ⟨pads, host, ⟨sync, -, ef⟩, kept, time⟩ := reached
  have levels : sampleOf t.syncA t.syncB = sampleOf q.1 q.2 := congrArg (fun p => sampleOf p.1 p.2) sync
  obtain ⟨seq, -, ext, -, sample, tLast, -⟩ := published_eq_iff.1 kept
  have old : t.prevSample = sampleOf s.padA s.padB := sample.trans sampled
  have differs : sampleOf t.syncA t.syncB ≠ t.prevSample := levels ▸ old ▸ sampleOf_ne_of_onePad _ q changed
  have moves : agentEffect .encwUpdate t = { takeSample (sampleOf q.1 q.2) t with encwPh := .idle } := by
    rw [agentEffect, sampleEncoder_changed t differs, levels]
  have raw : movedRaw t (dirDelta t.prevSample (sampleOf q.1 q.2)) =
      movedRaw s (dirDelta (sampleOf s.padA s.padB) (sampleOf q.1 q.2)) := by rw [old, movedRaw_of_eq _ host kept]
  rw [moves]
  exact ⟨pads, host, ⟨sync, rfl, ef⟩, ⟨congrArg (· + 1) seq, rfl, raw, tLast, ext⟩, time⟩

/-- ENCW's enabled step is the one its phase names, and takes the change to the next stage. -/
theorem reachesStage_worker (reached : reachesStage s q ticks stage t) (sampled : s.prevSample = sampleOf s.padA s.padB)
    (changed : onePad (s.padA, s.padB) q) {a : AgentStep} (worker : a ∈ workerSteps .enc) (en : enabled a t = true) :
    ∃ next, reachesStage s q ticks next (agentEffect a t) := by
  obtain rfl := eq_phaseStep .enc a worker t en
  have idleStep : t.encwPh = .idle → phaseStep .enc t = .encwConsumeRead := fun ph => by rw [phaseStep, ph]
  have waits : t.encwPh = .idle → t.evEnc.ef ≠ 0 := fun ph => ((enabled_iff .encwConsumeRead t).1 (idleStep ph ▸ en)).2
  obtain ⟨pads, host, holds, publishes⟩ := id reached
  cases stage with
  | unseen | updated =>
    obtain ⟨-, ph, served⟩ := holds
    exact absurd served (waits ph)
  | pending =>
    obtain ⟨sync, ph, -⟩ := holds
    rw [idleStep ph]
    exact ⟨.clearing, pads, host, ⟨sync, rfl⟩, publishes⟩
  | clearing =>
    obtain ⟨sync, ph⟩ := holds
    rw [phaseStep, ph]
    exact ⟨.updating, pads, host, ⟨sync, rfl, rfl⟩, publishes⟩
  | updating =>
    obtain ⟨-, ph, -⟩ := holds
    rw [phaseStep, ph]
    exact ⟨.updated, reachesStage_update reached sampled changed⟩

end

/-- The internal agents are the synchronisers and the two workers (30_encoding.md R103). -/
theorem internalSteps_cases (a : AgentStep) (internal : a ∈ internalSteps) :
    a = .syncA ∨ a = .syncB ∨ a ∈ workerSteps .enc ∨ a ∈ workerSteps .led := by
  revert a
  decide

/-- Whatever turn an internal agent or TICK takes, a changed pad stays at its stage or comes to the next one. -/
theorem reachesStage_afterTurn {s t : State} {q : Bool × Bool} {ticks : Prop} {stage : PadStage}
    (reached : reachesStage s q ticks stage t) (legal : s.cfg.legal) (on : s.en = true)
    (sampled : s.prevSample = sampleOf s.padA s.padB) (changed : onePad (s.padA, s.padB) q) (a : AgentStep)
    (turn : a ∈ internalSteps ∨ a = .tick) (ticking : a = .tick → ticks) :
    ∃ next, reachesStage s q ticks next (afterTurn a t) := by
  cases en : enabled a t with
  | false => exact ⟨stage, by rwa [afterTurn_disabled a t en]⟩
  | true =>
    rw [afterTurn_enabled a t en]
    obtain internal | rfl := turn
    · obtain rfl | rfl | enc | led := internalSteps_cases a internal
      · exact ⟨.pending, reachesStage_syncA reached legal on changed ((enabled_iff .syncA t).1 en)⟩
      · exact ⟨.pending, reachesStage_syncB reached legal on changed ((enabled_iff .syncB t).1 en)⟩
      · exact reachesStage_worker reached sampled changed enc en
      · exact ⟨stage, reachesStage_led reached led⟩
    · exact ⟨stage, reachesStage_tick reached (ticking rfl)⟩

theorem reachesStage_afterTurns {s t : State} {q : Bool × Bool} {ticks : Prop} {stage : PadStage}
    (reached : reachesStage s q ticks stage t) (legal : s.cfg.legal) (on : s.en = true)
    (sampled : s.prevSample = sampleOf s.padA s.padB) (changed : onePad (s.padA, s.padB) q) (as : List AgentStep)
    (turns : ∀ a ∈ as, a ∈ internalSteps ∨ a = .tick) (ticking : .tick ∈ as → ticks) :
    ∃ next, reachesStage s q ticks next (afterTurns as t) := by
  induction as generalizing t stage with
  | nil => exact ⟨stage, reached⟩
  | cons a as ih =>
    obtain ⟨turn, turns⟩ := List.forall_mem_cons.1 turns
    obtain ⟨next, reached⟩ := reachesStage_afterTurn reached legal on sampled changed a turn fun tick =>
      ticking (tick ▸ List.mem_cons_self)
    exact ih reached turns fun later => ticking (List.mem_cons_of_mem a later)

/-- A block at rest whose pads were set has not seen the change yet. -/
theorem reachesStage_start (s : State) (q : Bool × Bool) (ticks : Prop) (quiet : quiescent s) :
    reachesStage s q ticks .unseen { s with padA := q.1, padB := q.2 } := by
  obtain ⟨syncA, syncB, encw, -⟩ := quiet
  exact ⟨rfl, rfl, ⟨Prod.ext syncA syncB, encw⟩, rfl, fun _ => rfl⟩

/-- A block with a changed pad rests only after the update. -/
theorem updated_of_quiescent {s t : State} {q : Bool × Bool} {ticks : Prop} {stage : PadStage}
    (reached : reachesStage s q ticks stage t) (changed : onePad (s.padA, s.padB) q) (quiet : quiescent t) :
    updatedOnce s q t ∧ (¬ ticks → t.tLast = s.time) := by
  obtain ⟨pads, -, holds, publishes⟩ := reached
  obtain ⟨syncA, syncB, ⟨idle, served⟩, -⟩ := quiet
  cases stage with
  | unseen =>
    obtain ⟨sync, -⟩ := holds
    have same : q = (s.padA, s.padB) := pads.symm.trans ((Prod.ext syncA.symm syncB.symm).trans sync)
    exact absurd (same ▸ rfl) (sampleOf_ne_of_onePad _ q changed)
  | pending =>
    obtain ⟨-, -, pending⟩ := holds
    exact absurd served pending
  | clearing =>
    obtain ⟨-, ph⟩ := holds
    exact absurd (idle.symm.trans ph) (by decide)
  | updating =>
    obtain ⟨-, ph, -⟩ := holds
    exact absurd (idle.symm.trans ph) (by decide)
  | updated => exact publishes

/-- `settle` answers a changed pad with one update and comes to rest. -/
theorem settle_updatedOnce (s : State) (q : Bool × Bool) (sound : Inv s) (quiet : quiescent s) (on : s.en = true)
    (sampled : s.prevSample = sampleOf s.padA s.padB) (changed : onePad (s.padA, s.padB) q) :
    let t := settle { s with padA := q.1, padB := q.2 }
    quiescent t ∧ updatedOnce s q t ∧ t.tLast = s.time := by
  have rests : quiescent (settle { s with padA := q.1, padB := q.2 }) := internalRunsAreFinite.2 _ sound
  obtain ⟨e, settled⟩ := settle_onePad s q sound.legal quiet on sampled changed
  rw [settled] at rests ⊢
  exact ⟨rests, ⟨rfl, rfl, sampled ▸ rfl, rfl, rfl⟩, rfl⟩

/-- Settles O51: the stages of a changed pad allow one update under every schedule, and `settle` comes to its end. -/
theorem onePadChangeOneUpdate : Obligations.OnePadChangeOneUpdate := by
  intro a b s sound quiet on sampled changed
  refine ⟨fun as turns rests => ?_, ?_⟩
  · obtain ⟨stage, reached⟩ := reachesStage_afterTurns (reachesStage_start s (a, b) (.tick ∈ as) quiet) sound.legal on sampled
      changed as turns id
    exact updated_of_quiescent reached changed rests
  · exact ⟨_, runProgram_pads_settle a b [] s, settle_updatedOnce s (a, b) sound quiet on sampled changed⟩

end Sys2Proof
